-- ==== Sys2Proof/Word.lean ====
section
/-! DEFINITION. The words of the machine: all unsigned (spec/00_scope.md R9), bit 0 the least significant (R8). -/

namespace Sys2Proof

/-- A register, timer, stack pointer or memory byte: 8 bits (R6 `REG_W`, `TIMER_W`, `SP_W`). -/
abbrev Byte := BitVec 8

/-- The program counter, the index register, a stack entry, an instruction word: 16 bits (R6). -/
abbrev Word := BitVec 16

/-- One hexadecimal digit of an instruction word (R12 "Nibble"). -/
abbrev Nibble := BitVec 4

/-- The immediate address `nnn` (R92): 12 bits. -/
abbrev Addr12 := BitVec 12

end Sys2Proof
end

