-- ==== Sys2Proof/Config.lean ====
section
/-! DEFINITION. What is fixed for the machine: the parameters of spec/00_scope.md R6, the decided parameters of R7,
the type of the open parameter FONT_DATA, and the one free value (the random draw). FONT_DATA is an argument of `reset`
(Machine/HostPort.lean); its default, which a test could show wrong, stands in Machine/Font.lean. -/

namespace Sys2Proof.Config

/-- `MEM_SIZE` (R6): addresses 0..4095. -/
@[simp] abbrev memSize : Nat := 4096

/-- `STACK_DEPTH` (R6). -/
@[simp] abbrev stackDepth : Nat := 16

/-- `FONT_BASE` (R6): address of glyph 0. -/
@[simp] abbrev fontBase : Nat := 0x050

/-- Length of FONT_DATA: `FONT_GLYPHS * GLYPH_BYTES` (R6). -/
@[simp] abbrev fontSize : Nat := 80

/-- The open parameter `FONT_DATA` (R7): 80 bytes, which the spec's source does not give. What depends on it takes one as an
argument. -/
abbrev FontData : Type := Vector Byte fontSize

/-- `GLYPH_BYTES` (R6). -/
@[simp] abbrev glyphBytes : Nat := 5

/-- `PROG_BASE` (R6): load address and reset value of `PC`. -/
@[simp] abbrev progBase : Nat := 0x200

/-- `MAX_PROG` (R6): largest program image, bytes. -/
@[simp] abbrev maxProg : Nat := 3584

/-- `CELL_ON` (R6): export value of a lit pixel. -/
@[simp] abbrev cellOn : BitVec 32 := 0xFFFFFFFF#32

/-- `CELL_OFF` (R6): export value of a dark pixel. -/
@[simp] abbrev cellOff : BitVec 32 := 0x00000000#32

/-- `SUBKEY_0E` (R7, spec/30_encoding.md R95): the secondary key of groups 0 and E. -/
inductive SubKey where
  /-- Sub-dispatch on bits 7:0: the decided value. -/
  | lowByte
  /-- Sub-dispatch on bits 3:0: the alternative R95 describes and does not take. -/
  | lowNibble
deriving DecidableEq, Repr

/-- The decided value of `SUBKEY_0E` (R95, spec decision D2; log entry 10). -/
abbrev subKey0E : SubKey := .lowByte

/-- FREE VALUE. The byte of the `k`-th draw of the random source (R7 `rnd`, spec/42_alu.md R172): it has no body, so
no proof can use a value of it or a relation between two draws (log entry 2). -/
opaque freeDraw : Nat → Byte

end Sys2Proof.Config
end

