-- ==== Sys2Proof/Machine/Fields.lean ====
section
/-! DEFINITION. The fields of an instruction word (spec/30_encoding.md R92) and the words that select no instruction
(R98). -/

namespace Sys2Proof.Machine

/-- The word whose four hexadecimal digits are `a b c d`, `a` in bits 15:12 (R91). -/
def nibbles (a b c d : Nibble) : Word := a ++ b ++ c ++ d

/-- Primary dispatch key, bits 15:12 (R92, R94). -/
def groupOf (w : Word) : Nibble := w.extractLsb' 12 4

/-- Bits 11:8: the field `x`, or the bits `CLS` and `RET` do not examine (R92, R100). -/
def xOf (w : Word) : Nibble := w.extractLsb' 8 4

/-- Bits 7:4: the field `y` (R92). -/
def yOf (w : Word) : Nibble := w.extractLsb' 4 4

/-- Bits 3:0: the field `n`, and the sub-key of group 8 (R92, R95). -/
def nOf (w : Word) : Nibble := w.extractLsb' 0 4

/-- Bits 7:0: the immediate `kk`, and the sub-key of groups 0, E and F (R92, R95). -/
def kkOf (w : Word) : Byte := w.extractLsb' 0 8

/-- Bits 11:0: the immediate address `nnn` (R92). -/
def nnnOf (w : Word) : Addr12 := w.extractLsb' 0 12

/-- A register number as the four bits that encode it. -/
def regBits (x : Fin 16) : Nibble := BitVec.ofFin x

/-- The register number four bits spell (R92: `x` names `V[x]`). -/
def bitsReg (b : Nibble) : Fin 16 := b.toFin

/-- R98's table: the word selects none of the 34 instructions. Written from R98, not from the decoder. -/
def unmappedWord (w : Word) : Bool :=
  match groupOf w with
  | 0x0#4 => kkOf w != 0xE0#8 && kkOf w != 0xEE#8
  | 0x8#4 => [0x8#4, 0x9#4, 0xA#4, 0xB#4, 0xC#4, 0xD#4, 0xF#4].contains (nOf w)
  | 0xE#4 => kkOf w != 0x9E#8 && kkOf w != 0xA1#8
  | 0xF#4 => !([0x07#8, 0x0A#8, 0x15#8, 0x18#8, 0x1E#8, 0x29#8, 0x33#8, 0x55#8, 0x65#8].contains (kkOf w))
  | _ => false

end Sys2Proof.Machine
end

