-- ==== Sys2Proof/Syntax.lean ====
section
/-! DEFINITION. The instruction set: one constructor per row of spec/opcode_table.json (spec/30_encoding.md R96), the
no-operation of R98 among them. A constructor carries every bit of its word: bits the instruction does not examine
(R99, R100) are carried as `m`, `z` or `y` and have no effect (log entry 9). -/

namespace Sys2Proof

/-- A register number: `x` and `y` name `V[0]` to `V[15]` (R21, R93). -/
abbrev Reg := Fin 16

/-- One instruction of the machine. -/
inductive Instr where
  /-- `CLS`, 0mE0 (R211); bits 11:8 = `m` not examined. -/
  | cls (m : Nibble)
  /-- `RET`, 0mEE (R141); bits 11:8 = `m` not examined. -/
  | ret (m : Nibble)
  /-- `JP nnn`, 1nnn (R142). -/
  | jp (nnn : Addr12)
  /-- `CALL nnn`, 2nnn (R143). -/
  | call (nnn : Addr12)
  /-- `SE Vx, kk`, 3xkk (R144). -/
  | seImm (x : Reg) (kk : Byte)
  /-- `SNE Vx, kk`, 4xkk (R145). -/
  | sneImm (x : Reg) (kk : Byte)
  /-- `SE Vx, Vy`, 5xyz (R146); bits 3:0 = `z` not examined. -/
  | seReg (x y : Reg) (z : Nibble)
  /-- `LD Vx, kk`, 6xkk (R161). -/
  | ldImm (x : Reg) (kk : Byte)
  /-- `ADD Vx, kk`, 7xkk (R163). -/
  | addImm (x : Reg) (kk : Byte)
  /-- `LD Vx, Vy`, 8xy0 (R162). -/
  | ldReg (x y : Reg)
  /-- `OR Vx, Vy`, 8xy1 (R164). -/
  | orReg (x y : Reg)
  /-- `AND Vx, Vy`, 8xy2 (R165). -/
  | andReg (x y : Reg)
  /-- `XOR Vx, Vy`, 8xy3 (R166). -/
  | xorReg (x y : Reg)
  /-- `ADD Vx, Vy`, 8xy4 (R167). -/
  | addReg (x y : Reg)
  /-- `SUB Vx, Vy`, 8xy5 (R168). -/
  | sub (x y : Reg)
  /-- `SHR Vx`, 8xy6 (R170); `y` ignored. -/
  | shr (x y : Reg)
  /-- `SUBN Vx, Vy`, 8xy7 (R169). -/
  | subn (x y : Reg)
  /-- `SHL Vx`, 8xyE (R171); `y` ignored. -/
  | shl (x y : Reg)
  /-- `SNE Vx, Vy`, 9xyz (R147); bits 3:0 = `z` not examined. -/
  | sneReg (x y : Reg) (z : Nibble)
  /-- `LD I, nnn`, Annn (R191). -/
  | ldI (nnn : Addr12)
  /-- `JP V0, nnn`, Bnnn (R148). -/
  | jpV0 (nnn : Addr12)
  /-- `RND Vx, kk`, Cxkk (R172). -/
  | rnd (x : Reg) (kk : Byte)
  /-- `DRW Vx, Vy, n`, Dxyn (R212): `n` rows. -/
  | drw (x y : Reg) (n : Fin 16)
  /-- `SKP Vx`, Ex9E (R226). -/
  | skp (x : Reg)
  /-- `SKNP Vx`, ExA1 (R227). -/
  | sknp (x : Reg)
  /-- `LD Vx, DT`, Fx07 (R228). -/
  | ldVxDT (x : Reg)
  /-- `LD Vx, K`, Fx0A (R229). -/
  | ldVxK (x : Reg)
  /-- `LD DT, Vx`, Fx15 (R230). -/
  | ldDTVx (x : Reg)
  /-- `LD ST, Vx`, Fx18 (R231). -/
  | ldSTVx (x : Reg)
  /-- `ADD I, Vx`, Fx1E (R192). -/
  | addI (x : Reg)
  /-- `LD F, Vx`, Fx29 (R193). -/
  | ldF (x : Reg)
  /-- `LD B, Vx`, Fx33 (R194). -/
  | ldB (x : Reg)
  /-- `LD [I], Vx`, Fx55 (R195): `x` is the last register stored. -/
  | dumpRegs (x : Reg)
  /-- `LD Vx, [I]`, Fx65 (R196): `x` is the last register loaded. -/
  | loadRegs (x : Reg)
  /-- `NOP`, any unmapped word `w` (R98, R126). -/
  | nop (w : Word)
deriving DecidableEq, Repr

end Sys2Proof
end

