-- ==== Sys2Proof/WellFormed.lean ====
section
/-! DEFINITION. Which instruction terms some word encodes. Operand ranges are in the operands' types; the one check
left is that a `nop` carries an unmapped word (spec/30_encoding.md R98). -/

namespace Sys2Proof

/-- `i` is an instruction some word selects. -/
def Instr.wellFormed (i : Instr) : Bool :=
  match i with
  | .nop w => Machine.unmappedWord w
  | .cls _ | .ret _ | .jp _ | .call _ | .seImm _ _ | .sneImm _ _ | .seReg _ _ _ | .ldImm _ _ | .addImm _ _
  | .ldReg _ _ | .orReg _ _ | .andReg _ _ | .xorReg _ _ | .addReg _ _ | .sub _ _ | .shr _ _ | .subn _ _ | .shl _ _
  | .sneReg _ _ _ | .ldI _ | .jpV0 _ | .rnd _ _ | .drw _ _ _ | .skp _ | .sknp _ | .ldVxDT _ | .ldVxK _ | .ldDTVx _
  | .ldSTVx _ | .addI _ | .ldF _ | .ldB _ | .dumpRegs _ | .loadRegs _ => true

end Sys2Proof
end

