-- ==== Sys2Proof/Decode.lean ====
section
/-! DEFINITION. The decoder (spec/30_encoding.md R94, R95, R104), total on words, and on bytes with a named rejection;
the encoder, from the same opcode map R96; and the map itself as masks and matches. -/

namespace Sys2Proof

open Sys2Proof.Machine

/-- Group 0: keyed on the low byte, bits 11:8 not examined; under the alternative of R95, on the low nibble. -/
def decodeGroup0 (k : Config.SubKey) (w : Word) : Instr :=
  match k with
  | .lowByte =>
    match kkOf w with
    | 0xE0#8 => .cls (xOf w)
    | 0xEE#8 => .ret (xOf w)
    | _ => .nop w
  | .lowNibble =>
    match nOf w with
    | 0x0#4 => .cls (xOf w)
    | 0xE#4 => .ret (xOf w)
    | _ => .nop w

/-- Group 8: keyed on the low nibble (R95). -/
def decodeGroup8 (w : Word) : Instr :=
  let x := bitsReg (xOf w)
  let y := bitsReg (yOf w)
  match nOf w with
  | 0x0#4 => .ldReg x y
  | 0x1#4 => .orReg x y
  | 0x2#4 => .andReg x y
  | 0x3#4 => .xorReg x y
  | 0x4#4 => .addReg x y
  | 0x5#4 => .sub x y
  | 0x6#4 => .shr x y
  | 0x7#4 => .subn x y
  | 0xE#4 => .shl x y
  | _ => .nop w

/-- Group E: keyed on the low byte; under the alternative of R95, on the low nibble. -/
def decodeGroupE (k : Config.SubKey) (w : Word) : Instr :=
  let x := bitsReg (xOf w)
  match k with
  | .lowByte =>
    match kkOf w with
    | 0x9E#8 => .skp x
    | 0xA1#8 => .sknp x
    | _ => .nop w
  | .lowNibble =>
    match nOf w with
    | 0xE#4 => .skp x
    | 0x1#4 => .sknp x
    | _ => .nop w

/-- Group F: keyed on the low byte (R95). -/
def decodeGroupF (w : Word) : Instr :=
  let x := bitsReg (xOf w)
  match kkOf w with
  | 0x07#8 => .ldVxDT x
  | 0x0A#8 => .ldVxK x
  | 0x15#8 => .ldDTVx x
  | 0x18#8 => .ldSTVx x
  | 0x1E#8 => .addI x
  | 0x29#8 => .ldF x
  | 0x33#8 => .ldB x
  | 0x55#8 => .dumpRegs x
  | 0x65#8 => .loadRegs x
  | _ => .nop w

/-- R104, with the parameter `SUBKEY_0E` of R95 as an argument: total, never fails. -/
def decodeWith (k : Config.SubKey) (w : Word) : Instr :=
  let x := bitsReg (xOf w)
  let y := bitsReg (yOf w)
  match groupOf w with
  | 0x0#4 => decodeGroup0 k w
  | 0x1#4 => .jp (nnnOf w)
  | 0x2#4 => .call (nnnOf w)
  | 0x3#4 => .seImm x (kkOf w)
  | 0x4#4 => .sneImm x (kkOf w)
  | 0x5#4 => .seReg x y (nOf w)
  | 0x6#4 => .ldImm x (kkOf w)
  | 0x7#4 => .addImm x (kkOf w)
  | 0x8#4 => decodeGroup8 w
  | 0x9#4 => .sneReg x y (nOf w)
  | 0xA#4 => .ldI (nnnOf w)
  | 0xB#4 => .jpV0 (nnnOf w)
  | 0xC#4 => .rnd x (kkOf w)
  | 0xD#4 => .drw x y (bitsReg (nOf w))
  | 0xE#4 => decodeGroupE k w
  | _ => decodeGroupF w

/-- The decoder of this hardware (R104). -/
def decode (w : Word) : Instr := decodeWith Config.subKey0E w

/-- Why bytes hold no instruction. -/
inductive DecodeError where
  /-- Fewer than the two bytes every instruction has (R90). -/
  | truncated
deriving DecidableEq, Repr

/-- Big-endian packing of the two instruction bytes (spec/20_memory.md R66): `hi` is at the lower address. -/
def packWord (hi lo : Byte) : Word := hi ++ lo

/-- The instruction at the head of a byte stream, and the bytes after it (R66, R90). -/
def decodeBytes : List Byte → Except DecodeError (Instr × List Byte)
  | hi :: lo :: rest => .ok (decode (packWord hi lo), rest)
  | [_] => .error .truncated
  | [] => .error .truncated

/-- The high byte of a word, the one stored at the lower address (R66). -/
def highByte (w : Word) : Byte := w.extractLsb' 8 8

/-- The low byte of a word, the one stored at the higher address (R66). -/
def lowByte (w : Word) : Byte := w.extractLsb' 0 8

/-- The word that bits `w` of a table row of `nbits` bits stand for; the bits above `nbits` are 0 (log entry 13). -/
def tableWord (nbits w : Nat) : Word := BitVec.ofNat 16 (w % 2 ^ nbits)

/-- What the decoder reads from the instruction whose bits are `w`, laid out high byte first. -/
def decodeTableWord (nbits w : Nat) : Option Instr :=
  match decodeBytes [highByte (tableWord nbits w), lowByte (tableWord nbits w)] with
  | .ok (i, _) => some i
  | .error _ => none

/-- The word of an instruction, digit by digit as R96 spells it. -/
def encode (i : Instr) : Word :=
  match i with
  | .cls m => nibbles 0x0 m 0xE 0x0
  | .ret m => nibbles 0x0 m 0xE 0xE
  | .jp nnn => 0x1#4 ++ nnn
  | .call nnn => 0x2#4 ++ nnn
  | .seImm x kk => 0x3#4 ++ regBits x ++ kk
  | .sneImm x kk => 0x4#4 ++ regBits x ++ kk
  | .seReg x y z => nibbles 0x5 (regBits x) (regBits y) z
  | .ldImm x kk => 0x6#4 ++ regBits x ++ kk
  | .addImm x kk => 0x7#4 ++ regBits x ++ kk
  | .ldReg x y => nibbles 0x8 (regBits x) (regBits y) 0x0
  | .orReg x y => nibbles 0x8 (regBits x) (regBits y) 0x1
  | .andReg x y => nibbles 0x8 (regBits x) (regBits y) 0x2
  | .xorReg x y => nibbles 0x8 (regBits x) (regBits y) 0x3
  | .addReg x y => nibbles 0x8 (regBits x) (regBits y) 0x4
  | .sub x y => nibbles 0x8 (regBits x) (regBits y) 0x5
  | .shr x y => nibbles 0x8 (regBits x) (regBits y) 0x6
  | .subn x y => nibbles 0x8 (regBits x) (regBits y) 0x7
  | .shl x y => nibbles 0x8 (regBits x) (regBits y) 0xE
  | .sneReg x y z => nibbles 0x9 (regBits x) (regBits y) z
  | .ldI nnn => 0xA#4 ++ nnn
  | .jpV0 nnn => 0xB#4 ++ nnn
  | .rnd x kk => 0xC#4 ++ regBits x ++ kk
  | .drw x y n => nibbles 0xD (regBits x) (regBits y) (regBits n)
  | .skp x => nibbles 0xE (regBits x) 0x9 0xE
  | .sknp x => nibbles 0xE (regBits x) 0xA 0x1
  | .ldVxDT x => nibbles 0xF (regBits x) 0x0 0x7
  | .ldVxK x => nibbles 0xF (regBits x) 0x0 0xA
  | .ldDTVx x => nibbles 0xF (regBits x) 0x1 0x5
  | .ldSTVx x => nibbles 0xF (regBits x) 0x1 0x8
  | .addI x => nibbles 0xF (regBits x) 0x1 0xE
  | .ldF x => nibbles 0xF (regBits x) 0x2 0x9
  | .ldB x => nibbles 0xF (regBits x) 0x3 0x3
  | .dumpRegs x => nibbles 0xF (regBits x) 0x5 0x5
  | .loadRegs x => nibbles 0xF (regBits x) 0x6 0x5
  | .nop w => w

/-- A row of the opcode map: a word `w` is the row's instruction iff `w &&& mask = bits` (R96). -/
structure OpcodeRow where
  mask : Word
  bits : Word
deriving DecidableEq, Repr

/-- The row of the opcode map that an instruction belongs to; `nop` has the table's catch-all row, tried last. -/
def Instr.row (i : Instr) : OpcodeRow :=
  match i with
  | .cls _ => ⟨0xF0FF, 0x00E0⟩
  | .ret _ => ⟨0xF0FF, 0x00EE⟩
  | .jp _ => ⟨0xF000, 0x1000⟩
  | .call _ => ⟨0xF000, 0x2000⟩
  | .seImm _ _ => ⟨0xF000, 0x3000⟩
  | .sneImm _ _ => ⟨0xF000, 0x4000⟩
  | .seReg _ _ _ => ⟨0xF000, 0x5000⟩
  | .ldImm _ _ => ⟨0xF000, 0x6000⟩
  | .addImm _ _ => ⟨0xF000, 0x7000⟩
  | .ldReg _ _ => ⟨0xF00F, 0x8000⟩
  | .orReg _ _ => ⟨0xF00F, 0x8001⟩
  | .andReg _ _ => ⟨0xF00F, 0x8002⟩
  | .xorReg _ _ => ⟨0xF00F, 0x8003⟩
  | .addReg _ _ => ⟨0xF00F, 0x8004⟩
  | .sub _ _ => ⟨0xF00F, 0x8005⟩
  | .shr _ _ => ⟨0xF00F, 0x8006⟩
  | .subn _ _ => ⟨0xF00F, 0x8007⟩
  | .shl _ _ => ⟨0xF00F, 0x800E⟩
  | .sneReg _ _ _ => ⟨0xF000, 0x9000⟩
  | .ldI _ => ⟨0xF000, 0xA000⟩
  | .jpV0 _ => ⟨0xF000, 0xB000⟩
  | .rnd _ _ => ⟨0xF000, 0xC000⟩
  | .drw _ _ _ => ⟨0xF000, 0xD000⟩
  | .skp _ => ⟨0xF0FF, 0xE09E⟩
  | .sknp _ => ⟨0xF0FF, 0xE0A1⟩
  | .ldVxDT _ => ⟨0xF0FF, 0xF007⟩
  | .ldVxK _ => ⟨0xF0FF, 0xF00A⟩
  | .ldDTVx _ => ⟨0xF0FF, 0xF015⟩
  | .ldSTVx _ => ⟨0xF0FF, 0xF018⟩
  | .addI _ => ⟨0xF0FF, 0xF01E⟩
  | .ldF _ => ⟨0xF0FF, 0xF029⟩
  | .ldB _ => ⟨0xF0FF, 0xF033⟩
  | .dumpRegs _ => ⟨0xF0FF, 0xF055⟩
  | .loadRegs _ => ⟨0xF0FF, 0xF065⟩
  | .nop _ => ⟨0x0000, 0x0000⟩

/-- The 34 rows of the opcode map (R96), in its order. -/
def opcodeMap : List OpcodeRow :=
  [⟨0xF0FF, 0x00E0⟩, ⟨0xF0FF, 0x00EE⟩, ⟨0xF000, 0x1000⟩, ⟨0xF000, 0x2000⟩, ⟨0xF000, 0x3000⟩, ⟨0xF000, 0x4000⟩,
   ⟨0xF000, 0x5000⟩, ⟨0xF000, 0x6000⟩, ⟨0xF000, 0x7000⟩]
  ++ [⟨0xF00F, 0x8000⟩, ⟨0xF00F, 0x8001⟩, ⟨0xF00F, 0x8002⟩, ⟨0xF00F, 0x8003⟩, ⟨0xF00F, 0x8004⟩, ⟨0xF00F, 0x8005⟩,
   ⟨0xF00F, 0x8006⟩, ⟨0xF00F, 0x8007⟩, ⟨0xF00F, 0x800E⟩]
  ++ [⟨0xF000, 0x9000⟩, ⟨0xF000, 0xA000⟩, ⟨0xF000, 0xB000⟩, ⟨0xF000, 0xC000⟩, ⟨0xF000, 0xD000⟩, ⟨0xF0FF, 0xE09E⟩,
   ⟨0xF0FF, 0xE0A1⟩]
  ++ [⟨0xF0FF, 0xF007⟩, ⟨0xF0FF, 0xF00A⟩, ⟨0xF0FF, 0xF015⟩, ⟨0xF0FF, 0xF018⟩, ⟨0xF0FF, 0xF01E⟩, ⟨0xF0FF, 0xF029⟩,
   ⟨0xF0FF, 0xF033⟩, ⟨0xF0FF, 0xF055⟩, ⟨0xF0FF, 0xF065⟩]

end Sys2Proof
end

