-- ==== Sys2Proof/Machine/Font.lean ====
section
/-! DEFINITION. The default of the open parameter FONT_DATA (spec/20_memory.md R64), and the reset contents of memory with it
(R61). PRESUMED: the spec takes the default's bytes from general knowledge, not from its source (log entry 1). A machine with
another font is the same machine reset by `State.resetWith` (Machine/HostPort.lean). -/

namespace Sys2Proof.Machine

/-- The 16 glyphs of five rows, top row first (R64's table). -/
def fontGlyphs : List (List Byte) :=
  [[0xF0, 0x90, 0x90, 0x90, 0xF0], [0x20, 0x60, 0x20, 0x20, 0x70], [0xF0, 0x10, 0xF0, 0x80, 0xF0],
   [0xF0, 0x10, 0xF0, 0x10, 0xF0]]
  ++ [[0x90, 0x90, 0xF0, 0x10, 0x10], [0xF0, 0x80, 0xF0, 0x10, 0xF0], [0xF0, 0x80, 0xF0, 0x90, 0xF0],
   [0xF0, 0x10, 0x20, 0x40, 0x40]]
  ++ [[0xF0, 0x90, 0xF0, 0x90, 0xF0], [0xF0, 0x90, 0xF0, 0x10, 0xF0], [0xF0, 0x90, 0xF0, 0x90, 0x90],
   [0xE0, 0x90, 0xE0, 0x90, 0xE0]]
  ++ [[0xF0, 0x80, 0x80, 0x80, 0xF0], [0xE0, 0x90, 0x90, 0x90, 0xE0], [0xF0, 0x80, 0xF0, 0x80, 0xF0],
   [0xF0, 0x80, 0xF0, 0x80, 0x80]]

/-- The default table as one list (R64): 80 bytes. -/
def fontData : List Byte := fontGlyphs.flatten

/-- The default of FONT_DATA (R64). -/
def defaultFont : Config.FontData := ⟨fontData.toArray, rfl⟩

/-- What a byte of memory holds right after reset with the default font (spec/10_state.md R39), and what an unlisted address
of any memory reads as: a memory that holds another font lists the bytes in which it differs (log entry 12). -/
def resetByte (a : Nat) : Byte :=
  if Config.fontBase ≤ a ∧ a < Config.fontBase + Config.fontSize then fontData.getD (a - Config.fontBase) 0 else 0

end Sys2Proof.Machine
end

