-- ==== Sys2Proof/Machine/State.lean ====
section
/-! DEFINITION. The state of the block (spec/10_state.md R20) as plain data, its value after reset (R39), and the two
ways a step can stop. -/

namespace Sys2Proof.Machine

/-- `mem` (R34) in one canonical form: address and byte pairs, addresses strictly rising, below 4096, and no pair
whose byte is what an unlisted address reads as (`Memory.wf` in Machine/Ops.lean). -/
abbrev Memory := List Host.Cell

/-- The video buffer (R31): 32 rows of 64 pixels, row 0 at the top, column 0 at the left, `true` = on. -/
abbrev Video := Vector (Vector Bool 64) 32

/-- The `FAULT` record, field by field (R36). -/
structure FaultRecord where
  valid : Bool
  cause : BitVec 3
  pc    : Word
  info  : BitVec 17
deriving DecidableEq, Repr

/-- `FAULT` when no fault has been raised (R36, R39): every field 0. -/
def FaultRecord.none : FaultRecord := { valid := false, cause := 0, pc := 0, info := 0 }

/-- The fault causes of spec/60_exceptions.md R251. -/
inductive FaultCause where
  | fetchRange
  | memReadRange
  | memWriteRange
  | stackOverflow
  | stackUnderflow
  | keyIndexRange
deriving DecidableEq, Repr

/-- Everything the block holds, and the two fields of the model's own (`keys`, `draws`). -/
structure State where
  /-- `V[0..15]` (R21). -/
  v       : Vector Byte 16
  /-- `PC` (R23). -/
  pc      : Word
  /-- `I` (R25). -/
  i       : Word
  /-- `stack[0..15]` (R26). -/
  stack   : Vector Word 16
  /-- `SP` (R27): how many entries are occupied. -/
  sp      : Byte
  /-- `DT` (R28). -/
  dt      : Byte
  /-- `ST` (R29). -/
  st      : Byte
  /-- `mem[0..4095]` (R34). -/
  mem     : Memory
  /-- `vid[0..31][0..63]` (R31). -/
  vid     : Video
  /-- The current instruction word, transient (R33). -/
  opcode  : Word
  /-- `FAULT` (R36). -/
  fault   : FaultRecord
  /-- `LOAD_ERR` (R41). -/
  loadErr : Bool
  /-- The model's own: the keypad levels the host presents, bit `k` = key `k` (R30, log entry 4). -/
  keys    : BitVec 16
  /-- The model's own: how many random draws have been taken (R35, log entry 2). -/
  draws   : Nat
deriving DecidableEq, Repr

/-- Why the machine stops. A fault of the spec (R251) is no such stop: it is a next state with `FAULT` written. -/
inductive Fault where
  /-- Raised by `CALL` and `RET` in a state whose `SP` is above 16: R27 says no reachable state has one, and the spec gives
  no effect there. Safe: no run from reset reaches it, and it claims nothing of the hardware (log entry 5). -/
  | stackPointerBeyondStack
deriving DecidableEq, Repr

/-- Why an instruction has no meaning. -/
inductive Refusal where
  /-- Raised only by an arm of `exec` whose instruction has no meaning yet; no arm does so now. Safe. -/
  | notModelled (mnemonic : String)
deriving DecidableEq, Repr

/-- What executing an instruction or a step answers. -/
abbrev Result := Host.Outcome State Fault Refusal

/-- The machine right after reset (R39, spec/70_reset_and_hazards.md R291), its open parameter FONT_DATA at the default (R64, log
entry 1; `State.resetWith` in Machine/HostPort.lean takes any other): nothing listed in memory, so that every byte reads as
its reset contents. `opcode`, `keys` and `draws` have no reset value in the spec (log entries 3, 4, 2). -/
def State.reset : State :=
  { v := Vector.replicate 16 0
    pc := 0x200
    i := 0
    stack := Vector.replicate 16 0
    sp := 0
    dt := 0
    st := 0
    mem := []
    vid := Vector.replicate 32 (Vector.replicate 64 false)
    opcode := 0
    fault := FaultRecord.none
    loadErr := false
    keys := 0
    draws := 0 }

end Sys2Proof.Machine
end

