-- ==== Sys2Proof/Machine/Ops.lean ====
section
/-! DEFINITION. The named operations over memory, the video buffer, registers and the stack; raising a fault; and the
phases of the cycle (spec/40_cycle.md R120) that stand around the execution of an instruction. -/

namespace Sys2Proof.Machine

/-! ### Memory (spec/20_memory.md R68) -/

/-- The byte at address `a`. -/
def Memory.read : Memory → Nat → Byte
  | [], a => resetByte a
  | (c, d) :: m, a => if a = c then d else Memory.read m a

/-- A pair in front of a memory, left out where it says what an unlisted address says. -/
def Memory.put (m : Memory) (a : Nat) (b : Byte) : Memory :=
  if b = resetByte a then m else (a, b) :: m

/-- Write one byte, keeping the canonical form. -/
def Memory.write : Memory → Nat → Byte → Memory
  | [], a, b => Memory.put [] a b
  | (c, d) :: m, a, b =>
    if a < c then Memory.put ((c, d) :: m) a b
    else if a = c then Memory.put m a b
    else (c, d) :: Memory.write m a b

/-- Write bytes at ascending addresses from `a` (R67). -/
def Memory.writeBytes : Memory → Nat → List Byte → Memory
  | m, _, [] => m
  | m, a, b :: bs => Memory.writeBytes (m.write a b) (a + 1) bs

/-- Read `n` bytes at ascending addresses from `a` (R67). -/
def Memory.readBytes (m : Memory) (a : Nat) : Nat → List Byte
  | 0 => []
  | n + 1 => m.read a :: Memory.readBytes m (a + 1) n

/-- Every listed address is at least `lo` and below 4096, addresses rise strictly, and no pair says what an unlisted
address says. -/
def Memory.wfFrom : Nat → Memory → Bool
  | _, [] => true
  | lo, (a, b) :: m => decide (lo ≤ a) && decide (a < Config.memSize) && (b != resetByte a) && Memory.wfFrom (a + 1) m

/-- The canonical form. -/
def Memory.wf (m : Memory) : Bool := Memory.wfFrom 0 m

/-! ### The video buffer (spec/10_state.md R31) -/

/-- Pixel (`r`, `c`). -/
def Video.pixel (vid : Video) (r : Fin 32) (c : Fin 64) : Bool := vid[r][c]

/-- Write pixel (`r`, `c`). -/
def Video.setPixel (vid : Video) (r : Fin 32) (c : Fin 64) (on : Bool) : Video := vid.set r (vid[r].set c on)

/-- Every pixel off. -/
def Video.dark : Video := Vector.replicate 32 (Vector.replicate 64 false)

/-! ### Registers -/

/-- The flag register `VF` is `V[15]` (R22). -/
abbrev VF : Reg := 15

/-- Read `V[x]` (R21). -/
def State.getV (s : State) (x : Reg) : Byte := s.v[x]

/-- Write `V[x]` (R21). -/
def State.setV (s : State) (x : Reg) (b : Byte) : State := { s with v := s.v.set x b }

/-- Overwrite `PC` outright (R24). -/
def State.setPC (s : State) (pc : Word) : State := { s with pc := pc }

/-- Write `I` (R25). -/
def State.setI (s : State) (i : Word) : State := { s with i := i }

/-- Write `DT` (R28). -/
def State.setDT (s : State) (b : Byte) : State := { s with dt := b }

/-- Write `ST` (R29). -/
def State.setST (s : State) (b : Byte) : State := { s with st := b }

/-- Replace memory. -/
def State.setMem (s : State) (m : Memory) : State := { s with mem := m }

/-- Replace the video buffer. -/
def State.setVid (s : State) (vid : Video) : State := { s with vid := vid }

/-- The byte of memory at address `a`. -/
def State.peek (s : State) (a : Nat) : Byte := s.mem.read a

/-- The pixel at row `r`, column `c`. -/
def State.pixel (s : State) (r : Fin 32) (c : Fin 64) : Bool := s.vid.pixel r c

/-- Keypad input `k` (R30): 1 = pressed. -/
def State.key (s : State) (k : Nat) : Bool := s.keys.getLsbD k

/-- The next random draw (spec/42_alu.md R172). -/
def State.draw (s : State) : Byte := Config.freeDraw s.draws

/-- A draw has been taken: the next one is fresh (R172). -/
def State.countDraw (s : State) : State := { s with draws := s.draws + 1 }

/-- Skip the next instruction if `c` (spec/41_control_flow.md R140): `PC` already holds `pc0 + 2`. -/
def State.skipIf (s : State) (c : Bool) : State := if c then s.setPC (s.pc + 2) else s

/-- `pc0`, the address of the instruction being executed: phase 3 has advanced `PC` by 2 (R124). -/
def State.pc0 (s : State) : Word := s.pc - 2

/-! ### The call stack (spec/10_state.md R26, R27) -/

/-- Push: `stack[SP] <- a`, `SP <- SP + 1`, where there is an entry `SP`. -/
def State.push (s : State) (a : Word) (h : s.sp.toNat < 16) : State :=
  { s with stack := s.stack.set s.sp.toNat a, sp := s.sp + 1 }

/-- The most recent entry, `stack[SP - 1]`. -/
def State.top (s : State) (h : s.sp.toNat - 1 < 16) : Word := s.stack[s.sp.toNat - 1]

/-- Pop: `SP <- SP - 1`. The entry keeps its value (R26). -/
def State.pop (s : State) : State := { s with sp := s.sp - 1 }

/-! ### Faults (spec/60_exceptions.md R251 to R255). There is no return from a fault (R255): only `reset` clears it. -/

/-- The code of a cause (R251). -/
def FaultCause.code : FaultCause → BitVec 3
  | .fetchRange => 1
  | .memReadRange => 2
  | .memWriteRange => 3
  | .stackOverflow => 4
  | .stackUnderflow => 5
  | .keyIndexRange => 6

/-- Taking a fault (R252, R253): `PC` is `pc0` and `FAULT` records the cause, `pc0` and the cause's value. -/
def State.recordFault (s : State) (pc0 : Word) (cause : FaultCause) (info : BitVec 17) : State :=
  { s with pc := pc0, fault := { valid := true, cause := cause.code, pc := pc0, info := info } }

/-- A fault raised while an instruction executes (phase 4): the advance of phase 3 is undone (R253). -/
def raiseFault (cause : FaultCause) (info : BitVec 17) (s : State) : Result :=
  .next (s.recordFault s.pc0 cause info)

/-! ### The phases of the cycle (spec/40_cycle.md R120) -/

/-- Phase 2 (R123): the word at `PC`, high byte first, or none where a byte of it lies above address 4095. -/
def State.fetchWord (s : State) : Option Word :=
  if s.pc.toNat + 1 < Config.memSize then some (s.peek s.pc.toNat ++ s.peek (s.pc.toNat + 1)) else none

/-- What a fetch fault records as `info` (R123): the lowest address out of range. -/
def fetchInfo (pc : Word) : BitVec 17 := BitVec.ofNat 17 (max pc.toNat Config.memSize)

/-- The cycle a fetch fault abandons (R123, R128). -/
def State.fetchFault (s : State) : State := s.recordFault s.pc .fetchRange (fetchInfo s.pc)

/-- Phases 2 and 3 for the word `w` (R33, R124): the opcode register holds it and `PC` is advanced. -/
def State.latch (s : State) (w : Word) : State := { s with opcode := w, pc := s.pc + 2 }

/-- One timer's transition (R125): down by 1, floor at 0. -/
def tick (t : Byte) : Byte := if t = 0 then 0 else t - 1

/-- Phase 5 (R125). -/
def State.timerPhase (s : State) : State := { s with dt := tick s.dt, st := tick s.st }

/-- The end of a cycle begun in `s0` (R120, R128): where the instruction faulted every piece of state but `FAULT` is as
it was before the cycle, and otherwise the timer phase runs. -/
def endCycle (s0 : State) (r : Result) : Result :=
  match r with
  | .next t => .next (if t.fault.valid then { s0 with fault := t.fault } else t.timerPhase)
  | .fault f => .fault f
  | .refused f => .refused f

end Sys2Proof.Machine
end

