-- ==== Sys2Proof/Machine/Flags.lean ====
section
/-! DEFINITION. The five arithmetic flags and the collision flag, each 0 or 1, computed from the operands before any write
(spec/42_alu.md R160, R167 to R171; spec/10_state.md R22), and the order of the two writes. -/

namespace Sys2Proof.Machine

/-- A condition as the byte `VF` receives (R22: exactly 0 or 1). -/
def flagByte (c : Bool) : Byte := if c then 1 else 0

/-- Carry out of `a + b` (R167): the 9-bit sum exceeds 255. -/
def carryFlag (a b : Byte) : Byte := flagByte (decide (a.toNat + b.toNat > 255))

/-- No borrow in `a - b` (R168, R169): minuend at least subtrahend. -/
def noBorrowFlag (a b : Byte) : Byte := flagByte (decide (a.toNat ≥ b.toNat))

/-- The bit a right shift puts out (R170). -/
def lowBitFlag (a : Byte) : Byte := flagByte (a.getLsbD 0)

/-- The bit a left shift puts out (R171). -/
def highBitFlag (a : Byte) : Byte := flagByte (a.getLsbD 7)

/-- Result to `V[x]`, then the flag to `VF`: the flag is written last (R160). -/
def State.setResultAndFlag (s : State) (x : Reg) (result flag : Byte) : State := (s.setV x result).setV VF flag

end Sys2Proof.Machine
end

