-- ==== Sys2Proof/Machine/Alu.lean ====
section
/-! DEFINITION. Register load, arithmetic, logic, shift and random instructions (spec/42_alu.md). Operands are read first,
the flag is written last (R160). -/

namespace Sys2Proof.Machine

/-- `LD Vx, kk` (R161). -/
def execLdImm (x : Reg) (kk : Byte) (s : State) : Result := .next (s.setV x kk)

/-- `LD Vx, Vy` (R162). -/
def execLdReg (x y : Reg) (s : State) : Result := .next (s.setV x (s.getV y))

/-- `ADD Vx, kk` (R163): no flag. -/
def execAddImm (x : Reg) (kk : Byte) (s : State) : Result := .next (s.setV x (s.getV x + kk))

/-- `OR Vx, Vy` (R164): no flag. -/
def execOr (x y : Reg) (s : State) : Result := .next (s.setV x (s.getV x ||| s.getV y))

/-- `AND Vx, Vy` (R165): no flag. -/
def execAnd (x y : Reg) (s : State) : Result := .next (s.setV x (s.getV x &&& s.getV y))

/-- `XOR Vx, Vy` (R166): no flag. -/
def execXor (x y : Reg) (s : State) : Result := .next (s.setV x (s.getV x ^^^ s.getV y))

/-- `ADD Vx, Vy` (R167). -/
def execAddReg (x y : Reg) (s : State) : Result :=
  .next (s.setResultAndFlag x (s.getV x + s.getV y) (carryFlag (s.getV x) (s.getV y)))

/-- `SUB Vx, Vy` (R168): `Vx - Vy`. -/
def execSub (x y : Reg) (s : State) : Result :=
  .next (s.setResultAndFlag x (s.getV x - s.getV y) (noBorrowFlag (s.getV x) (s.getV y)))

/-- `SUBN Vx, Vy` (R169): `Vy - Vx`. -/
def execSubn (x y : Reg) (s : State) : Result :=
  .next (s.setResultAndFlag x (s.getV y - s.getV x) (noBorrowFlag (s.getV y) (s.getV x)))

/-- `SHR Vx` (R170): logical, by one. -/
def execShr (x : Reg) (s : State) : Result :=
  .next (s.setResultAndFlag x (s.getV x >>> 1) (lowBitFlag (s.getV x)))

/-- `SHL Vx` (R171): by one. -/
def execShl (x : Reg) (s : State) : Result :=
  .next (s.setResultAndFlag x (s.getV x <<< 1) (highBitFlag (s.getV x)))

/-- `RND Vx, kk` (R172): a fresh draw under the mask. -/
def execRnd (x : Reg) (kk : Byte) (s : State) : Result := .next (s.countDraw.setV x (s.draw &&& kk))

end Sys2Proof.Machine
end

