-- ==== Sys2Proof/Machine/Operands.lean ====
section
/-! DEFINITION. The operand forms: immediates (spec/30_encoding.md R93), bytes at `I + k` (spec/20_memory.md R68, R69), the
glyph address, decimal digits, and the pixels of a sprite (spec/44_graphics.md R210). -/

namespace Sys2Proof.Machine

/-- `zext_16(nnn)` (R93). -/
def zext16 (nnn : Addr12) : Word := nnn.setWidth 16

/-- The address of the `k`-th byte of an access based at `I`: a natural number, not wrapped (R69). -/
def State.effAddr (s : State) (k : Nat) : Nat := s.i.toNat + k

/-- Whether the `len` bytes based at `I` all lie in memory; no byte is always in range (R68, R212). -/
def State.inRange (s : State) (len : Nat) : Bool := len == 0 || decide (s.effAddr (len - 1) < Config.memSize)

/-- The lowest out-of-range address of an access based at `I` that passes the end of memory (R251): `max(I, 4096)`. -/
def State.rangeInfo (s : State) : BitVec 17 := BitVec.ofNat 17 (max s.i.toNat Config.memSize)

/-- Address of the glyph of `v` (spec/43_index_memory.md R193): the whole byte counts. -/
def glyphAddr (v : Byte) : Word := BitVec.ofNat 16 (v.toNat * Config.glyphBytes + Config.fontBase)

/-- Hundreds, tens and units of a byte (R194). -/
def bcdDigits (v : Byte) : List Byte :=
  [BitVec.ofNat 8 (v.toNat / 100), BitVec.ofNat 8 (v.toNat / 10 % 10), BitVec.ofNat 8 (v.toNat % 10)]

/-- `V[0]` to `V[x]` in order (R195). -/
def State.firstRegs (s : State) (x : Reg) : List Byte := s.v.toList.take (x.val + 1)

/-- Write bytes into `V[k]`, `V[k+1]`, ... (R196). -/
def State.setRegsFrom (s : State) : Nat → List Byte → State
  | _, [] => s
  | k, b :: bs => State.setRegsFrom (if h : k < 16 then s.setV ⟨k, h⟩ b else s) (k + 1) bs

/-- The number of the lowest key held down, if any (spec/45_timer_keypad.md R229). -/
def State.lowestKey (s : State) : Option Nat := (List.range 16).find? s.key

/-- Screen row of sprite row `row` at origin row `vy` (R210). -/
def spriteRow (vy : Byte) (row : Nat) : Fin 32 := Fin.ofNat 32 (vy.toNat + row)

/-- Screen column of sprite column `col` at origin column `vx` (R210). -/
def spriteCol (vx : Byte) (col : Nat) : Fin 64 := Fin.ofNat 64 (vx.toNat + col)

/-- A drawing under way: the buffer, and whether an on pixel has been turned off. -/
structure Drawing where
  vid : Video
  hit : Bool
deriving DecidableEq, Repr

/-- Toggle one pixel, noting a collision (R212). -/
def Drawing.toggle (d : Drawing) (r : Fin 32) (c : Fin 64) : Drawing :=
  { vid := d.vid.setPixel r c (!(d.vid.pixel r c)), hit := d.hit || d.vid.pixel r c }

/-- Draw the columns `cols` of one sprite row: bit 7 of the byte is column 0 (R212). -/
def Drawing.columns (vx : Byte) (r : Fin 32) (b : Byte) : Drawing → List Nat → Drawing
  | d, [] => d
  | d, col :: cols =>
    Drawing.columns vx r b (if b.getLsbD (7 - col) then d.toggle r (spriteCol vx col) else d) cols

/-- Draw sprite rows, from row `row` on, one byte a row (R212). -/
def Drawing.rows (vx vy : Byte) : Drawing → Nat → List Byte → Drawing
  | d, _, [] => d
  | d, row, b :: bs => Drawing.rows vx vy (d.columns vx (spriteRow vy row) b (List.range 8)) (row + 1) bs

end Sys2Proof.Machine
end

