-- ==== Sys2Proof/Machine/ControlFlow.lean ====
section
/-! DEFINITION. Control-flow instructions (spec/41_control_flow.md). `PC` already holds `pc0 + 2` (R140). -/

namespace Sys2Proof.Machine

/-- `RET` (R141). A stack pointer above 16 has no entry below it: no effect is given (R27, log entry 5). -/
def execRet (s : State) : Result :=
  if s.sp = 0 then raiseFault .stackUnderflow 0 s
  else if h : s.sp.toNat - 1 < 16 then .next (s.pop.setPC (s.top h))
  else .fault .stackPointerBeyondStack

/-- `JP nnn` (R142). -/
def execJp (nnn : Addr12) (s : State) : Result := .next (s.setPC (zext16 nnn))

/-- `CALL nnn` (R143): the return address is `PC`, that is `pc0 + 2`. A stack pointer above 16: log entry 5. -/
def execCall (nnn : Addr12) (s : State) : Result :=
  if s.sp = 16 then raiseFault .stackOverflow 16 s
  else if h : s.sp.toNat < 16 then .next ((s.push s.pc h).setPC (zext16 nnn))
  else .fault .stackPointerBeyondStack

/-- `SE Vx, kk` (R144). -/
def execSeImm (x : Reg) (kk : Byte) (s : State) : Result := .next (s.skipIf (s.getV x == kk))

/-- `SNE Vx, kk` (R145). -/
def execSneImm (x : Reg) (kk : Byte) (s : State) : Result := .next (s.skipIf (s.getV x != kk))

/-- `SE Vx, Vy` (R146). -/
def execSeReg (x y : Reg) (s : State) : Result := .next (s.skipIf (s.getV x == s.getV y))

/-- `SNE Vx, Vy` (R147). -/
def execSneReg (x y : Reg) (s : State) : Result := .next (s.skipIf (s.getV x != s.getV y))

/-- `JP V0, nnn` (R148): the sum is not masked. -/
def execJpV0 (nnn : Addr12) (s : State) : Result := .next (s.setPC (zext16 nnn + (s.getV 0).setWidth 16))

end Sys2Proof.Machine
end

