-- ==== Sys2Proof/Machine/Graphics.lean ====
section
/-! DEFINITION. Graphics instructions and the collision detector (spec/44_graphics.md). -/

namespace Sys2Proof.Machine

/-- `CLS` (R211): `VF` is not touched. -/
def execCls (s : State) : Result := .next (s.setVid Video.dark)

/-- The sprite of `n` rows at `I`, drawn at column `V[x]`, row `V[y]` over the buffer (R212). -/
def State.drawSprite (s : State) (x y : Reg) (n : Fin 16) : Drawing :=
  Drawing.rows (s.getV x) (s.getV y) { vid := s.vid, hit := false } 0 (s.mem.readBytes (s.effAddr 0) n.val)

/-- `DRW Vx, Vy, n` (R212): `VF` is written last, and always. -/
def execDrw (x y : Reg) (n : Fin 16) (s : State) : Result :=
  if s.inRange n.val then
    .next ((s.setVid (s.drawSprite x y n).vid).setV VF (flagByte (s.drawSprite x y n).hit))
  else raiseFault .memReadRange s.rangeInfo s

end Sys2Proof.Machine
end

