-- ==== Sys2Proof/Machine/IndexMemory.lean ====
section
/-! DEFINITION. Index-register and memory instructions (spec/43_index_memory.md). An access checks its whole range first and
leaves `I` alone (R190). -/

namespace Sys2Proof.Machine

/-- Store bytes based at `I`, or fault without effect (R68, R190). -/
def storeAtI (bytes : List Byte) (s : State) : Result :=
  if s.inRange bytes.length then .next (s.setMem (s.mem.writeBytes (s.effAddr 0) bytes))
  else raiseFault .memWriteRange s.rangeInfo s

/-- `LD I, nnn` (R191). -/
def execLdI (nnn : Addr12) (s : State) : Result := .next (s.setI (zext16 nnn))

/-- `ADD I, Vx` (R192): modulo 65536, no flag. -/
def execAddI (x : Reg) (s : State) : Result := .next (s.setI (s.i + (s.getV x).setWidth 16))

/-- `LD F, Vx` (R193). -/
def execLdF (x : Reg) (s : State) : Result := .next (s.setI (glyphAddr (s.getV x)))

/-- `LD B, Vx` (R194). -/
def execLdB (x : Reg) (s : State) : Result := storeAtI (bcdDigits (s.getV x)) s

/-- `LD [I], Vx` (R195). -/
def execDumpRegs (x : Reg) (s : State) : Result := storeAtI (s.firstRegs x) s

/-- `LD Vx, [I]` (R196). -/
def execLoadRegs (x : Reg) (s : State) : Result :=
  if s.inRange (x.val + 1) then .next (s.setRegsFrom 0 (s.mem.readBytes (s.effAddr 0) (x.val + 1)))
  else raiseFault .memReadRange s.rangeInfo s

end Sys2Proof.Machine
end

