-- ==== Sys2Proof/Machine/KeypadTimer.lean ====
section
/-! DEFINITION. Keypad and timer instructions (spec/45_timer_keypad.md). -/

namespace Sys2Proof.Machine

/-- Skip if key `V[x]` is at level `pressed`; an index above 15 selects no key and faults (R225 to R227). -/
def skipOnKey (x : Reg) (pressed : Bool) (s : State) : Result :=
  if (s.getV x).toNat > 15 then raiseFault .keyIndexRange ((s.getV x).setWidth 17) s
  else .next (s.skipIf (s.key (s.getV x).toNat == pressed))

/-- `SKP Vx` (R226). -/
def execSkp (x : Reg) (s : State) : Result := skipOnKey x true s

/-- `SKNP Vx` (R227). -/
def execSknp (x : Reg) (s : State) : Result := skipOnKey x false s

/-- `LD Vx, DT` (R228). -/
def execLdVxDT (x : Reg) (s : State) : Result := .next (s.setV x s.dt)

/-- `LD Vx, K` (R229): while no key is down, `PC` goes back to this instruction. -/
def execLdVxK (x : Reg) (s : State) : Result :=
  match s.lowestKey with
  | none => .next (s.setPC (s.pc - 2))
  | some k => .next (s.setV x (BitVec.ofNat 8 k))

/-- `LD DT, Vx` (R230). -/
def execLdDTVx (x : Reg) (s : State) : Result := .next (s.setDT (s.getV x))

/-- `LD ST, Vx` (R231). -/
def execLdSTVx (x : Reg) (s : State) : Result := .next (s.setST (s.getV x))

end Sys2Proof.Machine
end

