-- ==== Sys2Proof/Machine/Unmapped.lean ====
section
/-! DEFINITION. The no-operation of every unmapped word (spec/40_cycle.md R126). -/

namespace Sys2Proof.Machine

/-- `NOP` (R126): nothing beyond the cycle around it. -/
def execNop (s : State) : Result := .next s

end Sys2Proof.Machine
end

