-- ==== Sys2Proof/Machine/Step.lean ====
section
/-! DEFINITION. One cycle (spec/40_cycle.md R120), and an instruction placed where the next fetch reads it. -/

namespace Sys2Proof.Machine

/-- `step` (R120). While a fault stands nothing changes (R121). Phase 1, sampling the keypad, is the identity here: the host
changes the levels only between operations (R122, log entry 4). -/
def step (s : State) : Host.Outcome State Fault Refusal :=
  if s.fault.valid then .next s
  else
    match s.fetchWord with
    | none => .next s.fetchFault
    | some w => endCycle s (exec (decode w) (s.latch w))

/-- Where `withFetchWord` places an instruction: at `PC`, or at the program base where nothing can be fetched at `PC`. -/
def State.fetchPlace (s : State) : Word := if s.pc.toNat + 1 < Config.memSize then s.pc else 0x200

/-- The instruction of `nbits` bits `w` stored where the next fetch reads it. Beside the two bytes it changes `PC` only
where no word can be fetched there, and `FAULT` only where a standing fault would keep the step from fetching
(log entry 8). -/
def State.withFetchWord (s : State) (nbits w : Nat) : State :=
  { s with
    pc := s.fetchPlace
    fault := if s.fault.valid then FaultRecord.none else s.fault
    mem := s.mem.writeBytes s.fetchPlace.toNat [highByte (tableWord nbits w), lowByte (tableWord nbits w)] }

end Sys2Proof.Machine
end

