-- ==== Sys2Proof/Machine/HostPort.lean ====
section
/-! DEFINITION. What the host can do to the block and see of it (spec/60_exceptions.md R266 to R272): the operations, one
at a time and atomic, the keypad port, the loader port and the video port. -/

namespace Sys2Proof.Machine

/-- `load` (spec/20_memory.md R74 to R76): an image of at most 3584 bytes is copied to 0x200; a larger one is rejected whole.
Nothing but memory and `LOAD_ERR` changes, and it may be issued at any time, while faulted too (R77). -/
def State.load (s : State) (bytes : List Byte) : State :=
  if bytes.length ≤ Config.maxProg then
    { s with mem := s.mem.writeBytes Config.progBase bytes, loadErr := false }
  else { s with loadErr := true }

/-- The state right after construction or `reset` of the machine whose FONT_DATA is `font` (spec/10_state.md R39,
spec/70_reset_and_hazards.md R291). With the default font it is `State.reset`. -/
def State.resetWith (font : Config.FontData) : State :=
  { State.reset with mem := State.reset.mem.writeBytes Config.fontBase font.toList }

/-- `reset` as an operation (R290, R291) of the machine whose FONT_DATA is `font`: the reset state, with the host's keypad levels
unaffected (R291) and the random source not set back, so that later draws stay free (R293). -/
def State.resetOperation (font : Config.FontData) (s : State) : State :=
  { State.resetWith font with keys := s.keys, draws := s.draws }

/-- The host changes the keypad levels between operations (R267). -/
def State.presentKeys (s : State) (keys : BitVec 16) : State := { s with keys := keys }

/-- The levels of a host that holds a byte per key: any non-zero byte means pressed (spec/10_state.md R30). -/
def keysOfBytes (bytes : Vector Byte 16) : BitVec 16 :=
  (List.range 16).foldl (fun acc k => acc ||| (if bytes.toList.getD k 0 = 0 then 0 else 1#16 <<< k)) 0

/-- Cell `k` of the exported video buffer, row-major (R32, R268). -/
def State.videoCell (s : State) (k : Fin 2048) : BitVec 32 :=
  if s.pixel (Fin.ofNat 32 (k.val / 64)) (Fin.ofNat 64 (k.val % 64)) then Config.cellOn else Config.cellOff

/-- One request of the host (R266, R267). -/
inductive HostOp where
  | reset
  | load (bytes : List Byte)
  | keys (levels : BitVec 16)
  | step
deriving DecidableEq, Repr

/-- One request carried out to completion (R71) by the machine whose FONT_DATA is `font`. -/
def HostOp.apply (font : Config.FontData) (op : HostOp) (s : State) : Result :=
  match op with
  | .reset => .next (s.resetOperation font)
  | .load bytes => .next (s.load bytes)
  | .keys levels => .next (s.presentKeys levels)
  | .step => Machine.step s

/-- A history of requests, one at a time, in order (R72), to the machine whose FONT_DATA is `font`. -/
def runHost (font : Config.FontData) : List HostOp → State → Result
  | [], s => .next s
  | op :: ops, s =>
    match op.apply font s with
    | .next t => runHost font ops t
    | .fault f => .fault f
    | .refused f => .refused f

end Sys2Proof.Machine
end

