-- ==== Sys2Proof/Safety.lean ====
section
/-! DEFINITION. The terms claims use: the parts of the state and what a change leaves alone, the fault table of
spec/60_exceptions.md R251, the PC table of spec/10_state.md R24, which instruction writes what, the invariant of reachable
states, and the end of a run. They are written from the spec's tables, not from the meanings. -/

namespace Sys2Proof.Machine

/-! ### Parts of the state and frames -/

/-- One piece of state (spec/10_state.md R20), down to one register, one stack entry, one byte, one pixel. -/
inductive Part where
  | v (x : Reg)
  | pc
  | i
  | stack (k : Fin 16)
  | sp
  | dt
  | st
  | mem (a : Nat)
  | pixel (r : Fin 32) (c : Fin 64)
  | opcode
  | fault
  | loadErr
  | keys
  | draws
deriving DecidableEq, Repr

/-- The part `p` has one value in `s` and `t`. A byte of memory is compared by reading it. -/
def Part.same (p : Part) (s t : State) : Prop :=
  match p with
  | .v x => t.getV x = s.getV x
  | .pc => t.pc = s.pc
  | .i => t.i = s.i
  | .stack k => t.stack[k] = s.stack[k]
  | .sp => t.sp = s.sp
  | .dt => t.dt = s.dt
  | .st => t.st = s.st
  | .mem a => t.peek a = s.peek a
  | .pixel r c => t.pixel r c = s.pixel r c
  | .opcode => t.opcode = s.opcode
  | .fault => t.fault = s.fault
  | .loadErr => t.loadErr = s.loadErr
  | .keys => t.keys = s.keys
  | .draws => t.draws = s.draws

/-- `t` differs from `s` at most in the parts `W` admits. -/
def ChangesOnly (W : Part → Prop) (s t : State) : Prop := ∀ p : Part, ¬ W p → p.same s t

/-! ### Faults (R251 to R253) -/

/-- `t` is `s` after a fault taken while an instruction executes: `s` is the state after phase 3, so that `pc0` is
`PC - 2`. Nothing but `FAULT` and the undone advance of `PC` differs (R252, R253). -/
def FaultTaken (cause : FaultCause) (info : Nat) (s t : State) : Prop :=
  t.fault = { valid := true, cause := cause.code, pc := s.pc - 2, info := BitVec.ofNat 17 info } ∧
  t.pc = s.pc - 2 ∧ ChangesOnly (fun p => p = .pc ∨ p = .fault) s t

/-- R251's table, rows 2 to 6: the fault instruction `i` raises in `s`, with its `info`. Every other instruction raises
none. -/
def faultOf (i : Instr) (s : State) : Option (FaultCause × Nat) :=
  match i with
  | .drw _ _ n =>
    if n.val > 0 ∧ s.i.toNat + n.val - 1 > 4095 then some (.memReadRange, max s.i.toNat 4096) else none
  | .loadRegs x => if s.i.toNat + x.val > 4095 then some (.memReadRange, max s.i.toNat 4096) else none
  | .ldB _ => if s.i.toNat + 2 > 4095 then some (.memWriteRange, max s.i.toNat 4096) else none
  | .dumpRegs x => if s.i.toNat + x.val > 4095 then some (.memWriteRange, max s.i.toNat 4096) else none
  | .call _ => if s.sp.toNat = 16 then some (.stackOverflow, 16) else none
  | .ret _ => if s.sp.toNat = 0 then some (.stackUnderflow, 0) else none
  | .skp x => if (s.getV x).toNat > 15 then some (.keyIndexRange, (s.getV x).toNat) else none
  | .sknp x => if (s.getV x).toNat > 15 then some (.keyIndexRange, (s.getV x).toNat) else none
  | .cls _ | .jp _ | .seImm _ _ | .sneImm _ _ | .seReg _ _ _ | .ldImm _ _ | .addImm _ _ | .ldReg _ _ | .orReg _ _
  | .andReg _ _ | .xorReg _ _ | .addReg _ _ | .sub _ _ | .shr _ _ | .subn _ _ | .shl _ _ | .sneReg _ _ _ | .ldI _
  | .jpV0 _ | .rnd _ _ | .ldVxDT _ | .ldVxK _ | .ldDTVx _ | .ldSTVx _ | .addI _ | .ldF _ | .nop _ => none

/-- The fault table of a whole cycle (R251, R256): the fetch fault first, then the one of the instruction fetched. The
instruction is seen in the state after phase 3. -/
def cycleFault (s : State) : Option (FaultCause × Nat) :=
  if s.pc.toNat ≥ 4095 then some (.fetchRange, if s.pc.toNat = 4095 then 4096 else s.pc.toNat)
  else faultOf (decode (s.peek s.pc.toNat ++ s.peek (s.pc.toNat + 1))) s

/-! ### What an instruction that does not fault writes, and where it leaves PC -/

/-- Which parts instruction `i` may write in `s` where it raises no fault: the destinations the rule of each instruction
names (R22, R24 to R31, R60), the bytes of memory at the addresses of its access (R69). -/
def mayWrite (i : Instr) (s : State) (p : Part) : Prop :=
  match i with
  | .cls _ => ∃ r c, p = .pixel r c
  | .ret _ => p = .pc ∨ p = .sp
  | .call _ => p = .pc ∨ p = .sp ∨ ∃ k : Fin 16, k.val = s.sp.toNat ∧ p = .stack k
  | .jp _ | .jpV0 _ | .seImm _ _ | .sneImm _ _ | .seReg _ _ _ | .sneReg _ _ _ | .skp _ | .sknp _ => p = .pc
  | .ldImm x _ | .addImm x _ | .ldReg x _ | .orReg x _ | .andReg x _ | .xorReg x _ | .ldVxDT x => p = .v x
  | .addReg x _ | .sub x _ | .shr x _ | .subn x _ | .shl x _ => p = .v x ∨ p = .v VF
  | .rnd x _ => p = .v x ∨ p = .draws
  | .ldI _ | .addI _ | .ldF _ => p = .i
  | .drw _ _ _ => p = .v VF ∨ ∃ r c, p = .pixel r c
  | .ldVxK x => if s.keys = 0 then p = .pc else p = .v x
  | .ldDTVx _ => p = .dt
  | .ldSTVx _ => p = .st
  | .ldB _ => ∃ k : Nat, k < 3 ∧ p = .mem (s.effAddr k)
  | .dumpRegs x => ∃ k : Nat, k ≤ x.val ∧ p = .mem (s.effAddr k)
  | .loadRegs x => ∃ k : Fin 16, k.val ≤ x.val ∧ p = .v k
  | .nop _ => False

/-- R24's table for an instruction that does not fault. `s` is the state before the cycle, so that `pc0` is its `PC`;
registers, stack and keypad are read from it. -/
def nextPC (i : Instr) (s : State) : Word :=
  match i with
  | .seImm x kk => if s.getV x = kk then s.pc + 4 else s.pc + 2
  | .sneImm x kk => if s.getV x ≠ kk then s.pc + 4 else s.pc + 2
  | .seReg x y _ => if s.getV x = s.getV y then s.pc + 4 else s.pc + 2
  | .sneReg x y _ => if s.getV x ≠ s.getV y then s.pc + 4 else s.pc + 2
  | .skp x => if s.key (s.getV x).toNat = true then s.pc + 4 else s.pc + 2
  | .sknp x => if s.key (s.getV x).toNat = false then s.pc + 4 else s.pc + 2
  | .jp nnn | .call nnn => nnn.setWidth 16
  | .ret _ => s.stack.toList.getD (s.sp.toNat - 1) 0
  | .jpV0 nnn => nnn.setWidth 16 + (s.getV 0).setWidth 16
  | .ldVxK _ => if s.keys = 0 then s.pc else s.pc + 2
  | .cls _ | .ldImm _ _ | .addImm _ _ | .ldReg _ _ | .orReg _ _ | .andReg _ _ | .xorReg _ _ | .addReg _ _ | .sub _ _
  | .shr _ _ | .subn _ _ | .shl _ _ | .ldI _ | .rnd _ _ | .drw _ _ _ | .ldVxDT _ | .ldDTVx _ | .ldSTVx _ | .addI _
  | .ldF _ | .ldB _ | .dumpRegs _ | .loadRegs _ | .nop _ => s.pc + 2

/-- Pixel (`r`, `c`) lies under a set bit of the sprite of `n` rows at `I` with origin column `V[x]`, row `V[y]`
(spec/44_graphics.md R210, R212). -/
def SpriteCovers (s : State) (x y : Reg) (n : Nat) (r : Fin 32) (c : Fin 64) : Prop :=
  ∃ row col : Nat, row < n ∧ col < 8 ∧ (s.peek (s.i.toNat + row)).getLsbD (7 - col) = true ∧
    r.val = ((s.getV y).toNat + row) % 32 ∧ c.val = ((s.getV x).toNat + col) % 64

/-! ### Runs -/

/-- No fault stands (R255). -/
abbrev State.running (s : State) : Prop := s.fault.valid = false

/-- A fetch is possible: no fault stands and both instruction bytes lie in memory (R121, R123). -/
abbrev State.ready (s : State) : Prop := s.running ∧ s.pc.toNat ≤ 4094

/-- The word the next fetch reads, high byte first (R66). -/
def State.nextWord (s : State) : Word := s.peek s.pc.toNat ++ s.peek (s.pc.toNat + 1)

/-- The end of a run (R275): `PC` points at a jump to itself. DESIGN CHOICE: a state in which a fault stands is not finished,
even where a load while faulted (R77) has put a self-jump at its `PC`. R275 leaves that open: it defines the end by `PC` alone,
but its next clause has the timers count, which they do not while a fault stands (R121). Log entry 16. -/
def State.finished (s : State) : Prop := s.ready ∧ ∃ nnn : Addr12, decode s.nextWord = .jp nnn ∧ zext16 nnn = s.pc

/-- The `FAULT` record is one the block can hold (R36): all fields 0 while not valid; a cause of R251 and an `info` of at
most 0xFFFF while valid. -/
def FaultRecord.legal (f : FaultRecord) : Prop :=
  (f.valid = false → f.cause = 0 ∧ f.pc = 0 ∧ f.info = 0) ∧
  (f.valid = true → 1 ≤ f.cause.toNat ∧ f.cause.toNat ≤ 6 ∧ f.info.toNat ≤ 0xFFFF)

/-- What every reachable state satisfies. -/
structure State.Inv (s : State) : Prop where
  /-- Memory is canonical, and nothing lies outside 0..4095 (R34, R62). -/
  memory : s.mem.wf = true
  /-- `SP` stays within 0..16 (R27). -/
  sp_le : s.sp.toNat ≤ 16
  /-- `PC` never exceeds 0x10FE (R23). -/
  pc_le : s.pc.toNat ≤ 0x10FE
  /-- A stack entry is an address after an instruction in memory (R143, R123). -/
  stack_le : ∀ k : Fin 16, s.stack[k].toNat ≤ 4096
  /-- The fault record is legal (R36). -/
  fault_legal : s.fault.legal
  /-- While a fault stands, `PC` is at the instruction that faulted (R253, R255). -/
  fault_pc : s.fault.valid = true → s.fault.pc = s.pc

end Sys2Proof.Machine
end

