-- ==== Sys2Proof/Certificates/Slice0/Obligations.lean ====
section
/-! DEFINITION. The statements for the provers, in the order of the spec's files. Each docstring names the rule of spec/ it
formalises. `s` is the state an instruction executes in, after phase 3 of its cycle, unless a statement is about `step`. -/

open Sys2Proof Sys2Proof.Machine

/-! ### Encoding -/

/-- spec/30_encoding.md R96, R104: decoding the word of a well-formed instruction gives the instruction back, with every
operand and every unexamined bit. -/
def Obligations.DecodeOfEncodeIsTheInstruction : Prop :=
  ∀ i : Instr, i.wellFormed = true → decode (encode i) = i

/-- The model's choice (log entry 9, DESIGN CHOICE): since a constructor carries the bits its instruction does not examine and
`nop` its whole word, every word is the word of exactly one well-formed term, the one the decoder reads. The spec alone has
words of one instruction that differ in such bits (spec/30_encoding.md R99, R100); that every word selects an instruction is R104. -/
def Obligations.EncodeOfDecodeIsTheWord : Prop :=
  ∀ w : Word, (decode w).wellFormed = true ∧ encode (decode w) = w ∧
    ∀ i : Instr, i.wellFormed = true → encode i = w → i = decode w

/-- spec/30_encoding.md R96: a word is a row's instruction exactly if it meets the row's mask and match, no word meets two
rows, and a word that meets none is the no-operation. -/
def Obligations.OpcodeMapSelectsTheInstruction : Prop :=
  opcodeMap.length = 34 ∧
  ∀ w : Word,
    (∀ r ∈ opcodeMap, w &&& r.mask = r.bits ↔ (decode w).row = r) ∧
    (∀ r ∈ opcodeMap, ∀ q ∈ opcodeMap, w &&& r.mask = r.bits → w &&& q.mask = q.bits → r = q) ∧
    ((∀ r ∈ opcodeMap, w &&& r.mask ≠ r.bits) ↔ decode w = .nop w)

/-- spec/30_encoding.md R98, its table: exactly these words select no instruction. -/
def Obligations.UnmappedWordsAreThoseOfTheTable : Prop :=
  ∀ w : Word,
    decode w = .nop w ↔
      (w.extractLsb' 12 4 = 0x0#4 ∧ w.extractLsb' 0 8 ≠ 0xE0#8 ∧ w.extractLsb' 0 8 ≠ 0xEE#8) ∨
      (w.extractLsb' 12 4 = 0x8#4 ∧
        w.extractLsb' 0 4 ∈ [0x8#4, 0x9#4, 0xA#4, 0xB#4, 0xC#4, 0xD#4, 0xF#4]) ∨
      (w.extractLsb' 12 4 = 0xE#4 ∧ w.extractLsb' 0 8 ≠ 0x9E#8 ∧ w.extractLsb' 0 8 ≠ 0xA1#8) ∨
      (w.extractLsb' 12 4 = 0xF#4 ∧
        w.extractLsb' 0 8 ∉ [0x07#8, 0x0A#8, 0x15#8, 0x18#8, 0x1E#8, 0x29#8, 0x33#8, 0x55#8, 0x65#8])

/-- spec/30_encoding.md R90, spec/20_memory.md R66: two bytes, the first the high one; fewer are rejected by name. -/
def Obligations.TwoBytesHighFirstAreOneInstruction : Prop :=
  ∀ (hi lo : Byte) (rest : List Byte),
    decodeBytes (hi :: lo :: rest) = .ok (decode (BitVec.ofNat 16 (hi.toNat * 256 + lo.toNat)), rest) ∧
    decodeBytes [hi] = .error .truncated ∧ decodeBytes [] = .error .truncated

/-- spec/95_test_vectors.md section 2.7: words written out there, one of each family and some aliases. -/
def Obligations.WrittenOutWordsDecode : Prop :=
  decode 0x00E0 = .cls 0 ∧ decode 0x0FEE = .ret 0xF ∧ decode 0x2FFF = .call 0xFFF ∧ decode 0x5AB7 = .seReg 10 11 7 ∧
  decode 0x6ABC = .ldImm 10 0xBC ∧ decode 0x8AB5 = .sub 10 11 ∧ decode 0x8ABE = .shl 10 11 ∧
  decode 0xB123 = .jpV0 0x123 ∧ decode 0xDAB5 = .drw 10 11 5 ∧ decode 0xEAA1 = .sknp 10 ∧ decode 0xFA33 = .ldB 10 ∧
  decode 0xFA65 = .loadRegs 10 ∧ decode 0x00CE = .nop 0x00CE ∧ decode 0xEA9F = .nop 0xEA9F

/-- spec/30_encoding.md R99, last paragraph: the words on which the alternative value of `SUBKEY_0E` would differ. -/
def Obligations.LowNibbleAlternativeDiffersExactlyHere : Prop :=
  ∀ w : Word,
    decodeWith .lowNibble w ≠ decode w ↔
      (w.extractLsb' 12 4 = 0x0#4 ∧
        ((w.extractLsb' 0 4 = 0x0#4 ∧ w.extractLsb' 0 8 ≠ 0xE0#8) ∨
         (w.extractLsb' 0 4 = 0xE#4 ∧ w.extractLsb' 0 8 ≠ 0xEE#8))) ∨
      (w.extractLsb' 12 4 = 0xE#4 ∧
        ((w.extractLsb' 0 4 = 0x1#4 ∧ w.extractLsb' 0 8 ≠ 0xA1#8) ∨
         (w.extractLsb' 0 4 = 0xE#4 ∧ w.extractLsb' 0 8 ≠ 0x9E#8)))

/-! ### The cycle -/

/-- spec/40_cycle.md R120: a step is the execution of the fetched instruction with the opcode latched and `PC` advanced
before it, and after it either everything but `FAULT` restored or the timers decremented. -/
def Obligations.StepRunsTheFetchedInstruction : Prop :=
  ∀ s : State, s.ready →
    s.nextWord.toNat = (s.peek s.pc.toNat).toNat * 256 + (s.peek (s.pc.toNat + 1)).toNat ∧
    (∀ t : State, exec (decode s.nextWord) { s with opcode := s.nextWord, pc := s.pc + 2 } = .next t →
      step s = .next
        (if t.fault.valid then { s with fault := t.fault }
         else { t with dt := if t.dt = 0 then 0 else t.dt - 1, st := if t.st = 0 then 0 else t.st - 1 })) ∧
    (∀ f : Fault, exec (decode s.nextWord) { s with opcode := s.nextWord, pc := s.pc + 2 } = .fault f →
      step s = .fault f)

/-- spec/40_cycle.md R123: a word with both bytes in memory is fetched whatever its alignment, high byte first; with
`PC` at 4095 or above the cycle does nothing but record the fetch fault. -/
def Obligations.FetchBeyondMemoryFaults : Prop :=
  ∀ s : State, s.running →
    (s.pc.toNat ≤ 4094 → s.fetchWord = some (s.peek s.pc.toNat ++ s.peek (s.pc.toNat + 1))) ∧
    (4095 ≤ s.pc.toNat → step s = .next { s with fault :=
      { valid := true, cause := 1, pc := s.pc,
        info := if s.pc.toNat = 4095 then 4096 else BitVec.ofNat 17 s.pc.toNat } })

/-- spec/40_cycle.md R121: while a fault stands a step changes nothing. -/
def Obligations.StepWhileFaultedChangesNothing : Prop :=
  ∀ s : State, s.fault.valid = true → step s = .next s

/-- spec/60_exceptions.md R253, spec/40_cycle.md R128: after a cycle that faults, every piece of state other than `FAULT` has
the value it had before the cycle, and `FAULT` records the address of the instruction. -/
def Obligations.FaultsArePrecise : Prop :=
  ∀ s t : State, s.running → step s = .next t → t.fault.valid = true →
    t = { s with fault := t.fault } ∧ t.fault.pc = s.pc

/-- spec/60_exceptions.md R251: the codes, and for every state exactly which fault its cycle raises, with its `info`. -/
def Obligations.FaultTableIsExact : Prop :=
  (FaultCause.fetchRange.code = 1 ∧ FaultCause.memReadRange.code = 2 ∧ FaultCause.memWriteRange.code = 3 ∧
    FaultCause.stackOverflow.code = 4 ∧ FaultCause.stackUnderflow.code = 5 ∧ FaultCause.keyIndexRange.code = 6) ∧
  ∀ s t : State, s.running → step s = .next t →
    t.fault = match cycleFault s with
      | none => s.fault
      | some (cause, info) => { valid := true, cause := cause.code, pc := s.pc, info := BitVec.ofNat 17 info }

/-- spec/40_cycle.md R125: in a cycle that does not fault each timer goes down by one, floor at 0, from the value the
cycle's instruction loaded where it loaded one; the delay timer is read before it goes down. -/
def Obligations.TimersGoDownOncePerCycle : Prop :=
  ∀ s t : State, s.running → step s = .next t → t.fault.valid = false →
    let loadedDT := match decode s.nextWord with
      | .ldDTVx x => s.getV x
      | _ => s.dt
    let loadedST := match decode s.nextWord with
      | .ldSTVx x => s.getV x
      | _ => s.st
    t.dt = (if loadedDT = 0 then 0 else loadedDT - 1) ∧ t.st = (if loadedST = 0 then 0 else loadedST - 1) ∧
    ∀ x : Reg, decode s.nextWord = .ldVxDT x → t.getV x = s.dt

/-- spec/10_state.md R24: where each instruction leaves `PC`. -/
def Obligations.ProgramCounterAfterEachInstruction : Prop :=
  ∀ s t : State, s.running → step s = .next t →
    t.pc = if t.fault.valid then s.pc else nextPC (decode s.nextWord) s

/-- The model's own (log entry 8): an instruction placed by `withFetchWord` is the one the next step runs. -/
def Obligations.PlacedWordIsTheNextRun : Prop :=
  ∀ (s : State) (w : Word), s.mem.wf = true →
    (s.withFetchWord 16 w.toNat).ready ∧ (s.withFetchWord 16 w.toNat).nextWord = w ∧
    decodeTableWord 16 w.toNat = some (decode w) ∧
    (s.running → s.pc.toNat ≤ 4094 →
      ChangesOnly (fun p => p = .mem s.pc.toNat ∨ p = .mem (s.pc.toNat + 1)) s (s.withFetchWord 16 w.toNat))

/-- spec/20_memory.md R78: bytes a register dump stores are what the fetch reads when `PC` reaches them. -/
def Obligations.StoredBytesAreFetched : Prop :=
  ∀ (x : Reg) (k : Fin 16) (s t : State), s.mem.wf = true → s.running → s.i.toNat + x.val ≤ 4095 →
    (hk : k.val < x.val) → exec (.dumpRegs x) s = .next t → t.pc.toNat = s.i.toNat + k.val →
    t.fetchWord = some (s.getV k ++ s.getV ⟨k.val + 1, by omega⟩)

/-! ### Frames and whole-machine rules -/

/-- spec/10_state.md R22, R24 to R31, spec/20_memory.md R60: what each instruction may change; everything else, every
byte of memory included, is as before. An instruction that faults changes `PC` (back to its own address) and `FAULT`
only (spec/60_exceptions.md R252). -/
def Obligations.EachInstructionChangesOnlyItsDestinations : Prop :=
  ∀ (i : Instr) (s t : State), exec i s = .next t →
    ChangesOnly (fun p => if (faultOf i s).isSome then p = .pc ∨ p = .fault else mayWrite i s p) s t

/-- spec/10_state.md R22, its table: what each of the six flag writers leaves in `VF` (a draw that faults writes nothing;
a collision is a pixel that goes from on to off), and every other instruction leaves `VF` alone unless it names it as its
destination. -/
def Obligations.FlagRegisterWriters : Prop :=
  ∀ (i : Instr) (s t : State), exec i s = .next t →
    match i with
    | .addReg x y => t.getV VF = if (s.getV x).toNat + (s.getV y).toNat > 255 then 1 else 0
    | .sub x y => t.getV VF = if (s.getV x).toNat ≥ (s.getV y).toNat then 1 else 0
    | .subn x y => t.getV VF = if (s.getV y).toNat ≥ (s.getV x).toNat then 1 else 0
    | .shr x _ => (t.getV VF).toNat = (s.getV x).toNat % 2
    | .shl x _ => (t.getV VF).toNat = (s.getV x).toNat / 128
    | .drw _ _ _ =>
      (faultOf i s ≠ none → t.getV VF = s.getV VF) ∧
      (faultOf i s = none → (t.getV VF = 0 ∨ t.getV VF = 1) ∧
        (t.getV VF = 1 ↔ ∃ (r : Fin 32) (c : Fin 64), s.pixel r c = true ∧ t.pixel r c = false))
    | .ldImm x _ | .addImm x _ | .ldReg x _ | .orReg x _ | .andReg x _ | .xorReg x _ | .rnd x _ | .ldVxDT x | .ldVxK x
    | .loadRegs x => x ≠ VF → t.getV VF = s.getV VF
    | .cls _ | .ret _ | .jp _ | .call _ | .seImm _ _ | .sneImm _ _ | .seReg _ _ _ | .sneReg _ _ _ | .ldI _ | .jpV0 _
    | .skp _ | .sknp _ | .ldDTVx _ | .ldSTVx _ | .addI _ | .ldF _ | .ldB _ | .dumpRegs _ | .nop _ =>
      t.getV VF = s.getV VF

/-- spec/20_memory.md R60, R62: memory is changed by `LD B, Vx` and `LD [I], Vx` alone, at or above `I`, and never outside
the 4096 bytes. -/
def Obligations.OnlyTwoInstructionsStore : Prop :=
  ∀ (i : Instr) (s t : State) (a : Nat), exec i s = .next t → t.peek a ≠ s.peek a →
    (∃ x, i = .ldB x ∨ i = .dumpRegs x) ∧ s.i.toNat ≤ a ∧ a ≤ 4095

/-- spec/10_state.md R25 to R31, R36, R41: the only writers of the stack, `SP`, `I`, the timers, the video buffer and `FAULT`
among the instructions; no instruction writes `LOAD_ERR`, the keypad or the opcode register. -/
def Obligations.EachPieceOfStateHasItsWriters : Prop :=
  ∀ (i : Instr) (s t : State), exec i s = .next t →
    (t.stack ≠ s.stack → ∃ nnn, i = .call nnn) ∧
    (t.sp ≠ s.sp → (∃ nnn, i = .call nnn) ∨ ∃ m, i = .ret m) ∧
    (t.i ≠ s.i → (∃ nnn, i = .ldI nnn) ∨ ∃ x, i = .addI x ∨ i = .ldF x) ∧
    (t.dt ≠ s.dt → ∃ x, i = .ldDTVx x) ∧
    (t.st ≠ s.st → ∃ x, i = .ldSTVx x) ∧
    (t.vid ≠ s.vid → (∃ m, i = .cls m) ∨ ∃ x y n, i = .drw x y n) ∧
    (t.fault ≠ s.fault → faultOf i s ≠ none) ∧
    t.loadErr = s.loadErr ∧ t.keys = s.keys ∧ t.opcode = s.opcode

/-! ### The invariant -/

/-- The reset state meets the invariant, whatever the open parameter FONT_DATA is (spec/10_state.md R39, spec/00_scope.md R7). -/
def Obligations.ResetMeetsTheInvariant : Prop :=
  State.reset.Inv ∧ ∀ font : Config.FontData, (State.resetWith font).Inv

/-- From every state of the invariant, reachable or not, a step that answers a next state answers one of the invariant
(spec/10_state.md R23, R27, R36; spec/20_memory.md R62). -/
def Obligations.EveryStepKeepsTheInvariant : Prop :=
  ∀ s t : State, s.Inv → step s = .next t → t.Inv

/-- From every state of the invariant a step answers a next state: the block never stops by itself except by recording a
fault (spec/60_exceptions.md R250, R275). -/
def Obligations.NoStepStopsTheMachine : Prop :=
  ∀ s : State, s.Inv → ∃ t : State, step s = .next t

/-- Whatever the host does, in whatever order (spec/60_exceptions.md R266, R272): every history of `reset`, `load` of any
image, new keypad levels and `step` runs to its end and keeps the invariant, with any font. -/
def Obligations.EveryHostHistoryKeepsTheInvariant : Prop :=
  ∀ (font : Config.FontData) (ops : List HostOp) (s : State), s.Inv → ∃ t : State, runHost font ops s = .next t ∧ t.Inv

/-- The model's own (log entry 5): with `SP` above 16, which no state of the invariant has, `CALL` and `RET` stop. -/
def Obligations.StackPointerAboveSixteenStops : Prop :=
  ∀ (s : State) (nnn : Addr12) (m : Nibble), 16 < s.sp.toNat →
    exec (.call nnn) s = .fault .stackPointerBeyondStack ∧ exec (.ret m) s = .fault .stackPointerBeyondStack

/-- spec/70_reset_and_hazards.md R292: of all the host can do, `reset` alone clears a standing fault. -/
def Obligations.OnlyResetClearsAFault : Prop :=
  ∀ (font : Config.FontData) (op : HostOp) (s t : State), s.fault.valid = true → op.apply font s = .next t →
    (op = .reset ∧ t.fault = { valid := false, cause := 0, pc := 0, info := 0 }) ∨ (op ≠ .reset ∧ t.fault = s.fault)

/-! ### Reset, load, the video port -/

/-- spec/70_reset_and_hazards.md R291, spec/10_state.md R39: what `reset` leaves, from any state, and what the machine is
right after construction, for every value of the open parameter FONT_DATA. -/
def Obligations.ResetLeavesTheseValues : Prop :=
  ∀ (font : Config.FontData) (s z : State), z = State.resetWith font ∨ HostOp.reset.apply font s = .next z →
    (∀ x : Reg, z.getV x = 0) ∧ (∀ k : Fin 16, z.stack[k] = 0) ∧ z.pc = 0x200 ∧ z.i = 0 ∧ z.sp = 0 ∧ z.dt = 0 ∧
    z.st = 0 ∧ (∀ (r : Fin 32) (c : Fin 64), z.pixel r c = false) ∧
    z.fault = { valid := false, cause := 0, pc := 0, info := 0 } ∧ z.loadErr = false ∧
    (∀ k : Fin 80, z.peek (0x050 + k.val) = font[k]) ∧
    (∀ a : Nat, a < 0x050 ∨ 0x0A0 ≤ a → z.peek a = 0) ∧
    (HostOp.reset.apply font s = .next z → z.keys = s.keys)

/-- spec/20_memory.md R74, R76: an image of at most 3584 bytes is copied verbatim to 0x200, and nothing else but
`LOAD_ERR` changes. -/
def Obligations.LoadCopiesTheImage : Prop :=
  ∀ (font : Config.FontData) (s : State) (bytes : List Byte), s.mem.wf = true → bytes.length ≤ 3584 →
    ∃ t : State, (HostOp.load bytes).apply font s = .next t ∧ t.loadErr = false ∧
      (∀ (k : Nat) (h : k < bytes.length), t.peek (0x200 + k) = bytes[k]) ∧
      ChangesOnly (fun p => p = .loadErr ∨ ∃ k : Nat, k < bytes.length ∧ p = .mem (0x200 + k)) s t

/-- spec/20_memory.md R75: a larger image is rejected whole; only `LOAD_ERR` is written, and the next step still runs what
it would have run. -/
def Obligations.OversizeLoadIsRejected : Prop :=
  ∀ (font : Config.FontData) (s : State) (bytes : List Byte), 3584 < bytes.length →
    ∃ t : State, (HostOp.load bytes).apply font s = .next t ∧ t.loadErr = true ∧ ChangesOnly (fun p => p = .loadErr) s t ∧
      (s.ready → t.ready ∧ t.nextWord = s.nextWord)

/-- spec/10_state.md R32: the exported cells, row-major, and their two values. -/
def Obligations.VideoCellsExportThePixels : Prop :=
  ∀ (s : State) (r : Fin 32) (c : Fin 64),
    s.videoCell ⟨r.val * 64 + c.val, by omega⟩ = (if s.pixel r c then 0xFFFFFFFF#32 else 0x00000000#32) ∧
    ∀ k : Fin 2048, s.videoCell k = 0xFFFFFFFF#32 ∨ s.videoCell k = 0x00000000#32

/-! ### Control flow -/

/-- spec/41_control_flow.md R141. -/
def Obligations.RetPopsTheReturnAddress : Prop :=
  ∀ (m : Nibble) (s : State),
    decode (nibbles 0x0 m 0xE 0xE) = .ret m ∧
    (s.sp = 0 → ∃ t, exec (.ret m) s = .next t ∧ FaultTaken .stackUnderflow 0 s t) ∧
    (∀ k : Fin 16, s.sp.toNat = k.val + 1 →
      ∃ t, exec (.ret m) s = .next t ∧ t.sp.toNat = k.val ∧ t.pc = s.stack[k] ∧
        ChangesOnly (fun p => p = .pc ∨ p = .sp) s t)

/-- spec/41_control_flow.md R142. -/
def Obligations.JumpSetsPC : Prop :=
  ∀ (nnn : Addr12) (s : State),
    decode (0x1#4 ++ nnn) = .jp nnn ∧
    ∃ t, exec (.jp nnn) s = .next t ∧ t.pc.toNat = nnn.toNat ∧ ChangesOnly (fun p => p = .pc) s t

/-- spec/41_control_flow.md R143. `PC` holds the return address. -/
def Obligations.CallPushesTheReturnAddress : Prop :=
  ∀ (nnn : Addr12) (s : State),
    decode (0x2#4 ++ nnn) = .call nnn ∧
    (s.sp = 16 → ∃ t, exec (.call nnn) s = .next t ∧ FaultTaken .stackOverflow 16 s t) ∧
    (∀ k : Fin 16, s.sp.toNat = k.val →
      ∃ t, exec (.call nnn) s = .next t ∧ t.stack[k] = s.pc ∧ t.sp.toNat = k.val + 1 ∧ t.pc.toNat = nnn.toNat ∧
        ChangesOnly (fun p => p = .pc ∨ p = .sp ∨ p = .stack k) s t)

/-- spec/41_control_flow.md R144, R145. -/
def Obligations.SkipsOnAnImmediate : Prop :=
  ∀ (x : Reg) (kk : Byte) (s : State),
    decode (0x3#4 ++ regBits x ++ kk) = .seImm x kk ∧ decode (0x4#4 ++ regBits x ++ kk) = .sneImm x kk ∧
    (∃ t, exec (.seImm x kk) s = .next t ∧ t.pc = (if s.getV x = kk then s.pc + 2 else s.pc) ∧
      ChangesOnly (fun p => p = .pc) s t) ∧
    (∃ t, exec (.sneImm x kk) s = .next t ∧ t.pc = (if s.getV x ≠ kk then s.pc + 2 else s.pc) ∧
      ChangesOnly (fun p => p = .pc) s t)

/-- spec/41_control_flow.md R146, R147: bits 3:0 = `z` are not examined. -/
def Obligations.SkipsOnTwoRegisters : Prop :=
  ∀ (x y : Reg) (z : Nibble) (s : State),
    decode (nibbles 0x5 (regBits x) (regBits y) z) = .seReg x y z ∧
    decode (nibbles 0x9 (regBits x) (regBits y) z) = .sneReg x y z ∧
    (∃ t, exec (.seReg x y z) s = .next t ∧ t.pc = (if s.getV x = s.getV y then s.pc + 2 else s.pc) ∧
      ChangesOnly (fun p => p = .pc) s t) ∧
    (∃ t, exec (.sneReg x y z) s = .next t ∧ t.pc = (if s.getV x ≠ s.getV y then s.pc + 2 else s.pc) ∧
      ChangesOnly (fun p => p = .pc) s t)

/-- spec/41_control_flow.md R148: the sum is written whole. -/
def Obligations.JumpWithOffsetIsNotMasked : Prop :=
  ∀ (nnn : Addr12) (s : State),
    decode (0xB#4 ++ nnn) = .jpV0 nnn ∧
    ∃ t, exec (.jpV0 nnn) s = .next t ∧ t.pc.toNat = nnn.toNat + (s.getV 0).toNat ∧
      ChangesOnly (fun p => p = .pc) s t

/-- spec/41_control_flow.md R141, its last quotation: whatever a subroutine did, as long as the stack is as the call left
it, `RET` goes on at the instruction after the `CALL`. -/
def Obligations.RetUndoesCall : Prop :=
  ∀ (nnn : Addr12) (m : Nibble) (s t u : State), s.sp.toNat < 16 → exec (.call nnn) s = .next t →
    u.sp = t.sp → u.stack = t.stack →
    ∃ u', exec (.ret m) u = .next u' ∧ u'.pc = s.pc ∧ u'.sp = s.sp

/-- spec/60_exceptions.md R275: from a finished state every step leaves all state unchanged but the timers, which go down,
and the transient opcode register (log entry 3). That a state in which a fault stands is not finished is the model's choice
(log entry 16). -/
def Obligations.FinishedStaysFinished : Prop :=
  ∀ s : State, s.finished →
    ∃ t : State, step s = .next t ∧ t.finished ∧
      ChangesOnly (fun p => p = .dt ∨ p = .st ∨ p = .opcode) s t ∧
      t.dt = (if s.dt = 0 then 0 else s.dt - 1) ∧ t.st = (if s.st = 0 then 0 else s.st - 1)

/-- spec/40_cycle.md R126: an unmapped word executes as a no-operation, in a whole cycle as alone. Of the transient opcode
register (R33) the statement says nothing. -/
def Obligations.UnmappedWordIsANoOperation : Prop :=
  ∀ (w : Word) (s : State), unmappedWord w = true →
    decode w = .nop w ∧ exec (.nop w) s = .next s ∧
    (s.ready → s.nextWord = w →
      ∃ t, step s = .next t ∧ t.pc = s.pc + 2 ∧ t.dt = (if s.dt = 0 then 0 else s.dt - 1) ∧
        t.st = (if s.st = 0 then 0 else s.st - 1) ∧
        ChangesOnly (fun p => p = .pc ∨ p = .dt ∨ p = .st ∨ p = .opcode) s t)

/-! ### Register load, arithmetic, logic, shift, random -/

/-- spec/42_alu.md R161, R162. -/
def Obligations.LoadImmediateAndCopy : Prop :=
  ∀ (x y : Reg) (kk : Byte) (s : State),
    decode (0x6#4 ++ regBits x ++ kk) = .ldImm x kk ∧
    decode (nibbles 0x8 (regBits x) (regBits y) 0x0) = .ldReg x y ∧
    (∃ t, exec (.ldImm x kk) s = .next t ∧ t.getV x = kk ∧ ChangesOnly (fun p => p = .v x) s t) ∧
    (∃ t, exec (.ldReg x y) s = .next t ∧ t.getV x = s.getV y ∧ ChangesOnly (fun p => p = .v x) s t)

/-- spec/42_alu.md R163: wraps, and writes no flag. -/
def Obligations.AddImmediateWrapsWithoutAFlag : Prop :=
  ∀ (x : Reg) (kk : Byte) (s : State),
    decode (0x7#4 ++ regBits x ++ kk) = .addImm x kk ∧
    ∃ t, exec (.addImm x kk) s = .next t ∧ (t.getV x).toNat = ((s.getV x).toNat + kk.toNat) % 256 ∧
      ChangesOnly (fun p => p = .v x) s t

/-- spec/42_alu.md R164 to R166: bit by bit, and no flag. -/
def Obligations.LogicWritesNoFlag : Prop :=
  ∀ (x y : Reg) (s : State),
    decode (nibbles 0x8 (regBits x) (regBits y) 0x1) = .orReg x y ∧
    decode (nibbles 0x8 (regBits x) (regBits y) 0x2) = .andReg x y ∧
    decode (nibbles 0x8 (regBits x) (regBits y) 0x3) = .xorReg x y ∧
    (∃ t, exec (.orReg x y) s = .next t ∧
      (∀ b : Nat, (t.getV x).getLsbD b = ((s.getV x).getLsbD b || (s.getV y).getLsbD b)) ∧
      ChangesOnly (fun p => p = .v x) s t) ∧
    (∃ t, exec (.andReg x y) s = .next t ∧
      (∀ b : Nat, (t.getV x).getLsbD b = ((s.getV x).getLsbD b && (s.getV y).getLsbD b)) ∧
      ChangesOnly (fun p => p = .v x) s t) ∧
    (∃ t, exec (.xorReg x y) s = .next t ∧
      (∀ b : Nat, (t.getV x).getLsbD b = ((s.getV x).getLsbD b ^^ (s.getV y).getLsbD b)) ∧
      ChangesOnly (fun p => p = .v x) s t)

/-- spec/42_alu.md R167: the sum modulo 256 and its carry; with `x` = F the carry is what remains (R160). -/
def Obligations.AddRegistersWithCarry : Prop :=
  ∀ (x y : Reg) (s : State),
    decode (nibbles 0x8 (regBits x) (regBits y) 0x4) = .addReg x y ∧
    ∃ t, exec (.addReg x y) s = .next t ∧
      (x ≠ VF → (t.getV x).toNat = ((s.getV x).toNat + (s.getV y).toNat) % 256) ∧
      t.getV VF = (if (s.getV x).toNat + (s.getV y).toNat > 255 then 1 else 0) ∧
      ChangesOnly (fun p => p = .v x ∨ p = .v VF) s t

/-- spec/42_alu.md R168, R169: the difference modulo 256, and 1 in `VF` exactly if no borrow. -/
def Obligations.SubtractBothWays : Prop :=
  ∀ (x y : Reg) (s : State),
    decode (nibbles 0x8 (regBits x) (regBits y) 0x5) = .sub x y ∧
    decode (nibbles 0x8 (regBits x) (regBits y) 0x7) = .subn x y ∧
    (∃ t, exec (.sub x y) s = .next t ∧
      (x ≠ VF → (t.getV x).toNat = ((s.getV x).toNat + 256 - (s.getV y).toNat) % 256) ∧
      t.getV VF = (if (s.getV x).toNat ≥ (s.getV y).toNat then 1 else 0) ∧
      ChangesOnly (fun p => p = .v x ∨ p = .v VF) s t) ∧
    (∃ t, exec (.subn x y) s = .next t ∧
      (x ≠ VF → (t.getV x).toNat = ((s.getV y).toNat + 256 - (s.getV x).toNat) % 256) ∧
      t.getV VF = (if (s.getV y).toNat ≥ (s.getV x).toNat then 1 else 0) ∧
      ChangesOnly (fun p => p = .v x ∨ p = .v VF) s t)

/-- spec/42_alu.md R170, R171: `Vx` in place by one, `Vy` neither read nor written, the bit shifted out in `VF`. -/
def Obligations.ShiftsPutTheBitInVF : Prop :=
  ∀ (x y : Reg) (s : State),
    decode (nibbles 0x8 (regBits x) (regBits y) 0x6) = .shr x y ∧
    decode (nibbles 0x8 (regBits x) (regBits y) 0xE) = .shl x y ∧
    (∃ t, exec (.shr x y) s = .next t ∧ (x ≠ VF → (t.getV x).toNat = (s.getV x).toNat / 2) ∧
      (t.getV VF).toNat = (s.getV x).toNat % 2 ∧ ChangesOnly (fun p => p = .v x ∨ p = .v VF) s t) ∧
    (∃ t, exec (.shl x y) s = .next t ∧ (x ≠ VF → (t.getV x).toNat = (s.getV x).toNat * 2 % 256) ∧
      (t.getV VF).toNat = (s.getV x).toNat / 128 ∧ ChangesOnly (fun p => p = .v x ∨ p = .v VF) s t)

/-- spec/42_alu.md R172: a byte under the mask. The draw is the free value of log entry 2, the counter the model's own; the
statement holds whatever the draw is. -/
def Obligations.RandomByteUnderAMask : Prop :=
  ∀ (x : Reg) (kk : Byte) (s : State),
    decode (0xC#4 ++ regBits x ++ kk) = .rnd x kk ∧
    ∃ t, exec (.rnd x kk) s = .next t ∧ t.getV x = Config.freeDraw s.draws &&& kk ∧ t.draws = s.draws + 1 ∧
      t.getV x &&& ~~~kk = 0 ∧ ChangesOnly (fun p => p = .v x ∨ p = .draws) s t

/-! ### Index register and memory -/

/-- spec/43_index_memory.md R191 to R193: `I` from an immediate, by a register modulo 65536, and to a glyph; no flag. -/
def Obligations.IndexRegisterInstructions : Prop :=
  ∀ (x : Reg) (nnn : Addr12) (s : State),
    decode (0xA#4 ++ nnn) = .ldI nnn ∧ decode (nibbles 0xF (regBits x) 0x1 0xE) = .addI x ∧
    decode (nibbles 0xF (regBits x) 0x2 0x9) = .ldF x ∧
    (∃ t, exec (.ldI nnn) s = .next t ∧ t.i.toNat = nnn.toNat ∧ ChangesOnly (fun p => p = .i) s t) ∧
    (∃ t, exec (.addI x) s = .next t ∧ t.i.toNat = (s.i.toNat + (s.getV x).toNat) % 65536 ∧
      ChangesOnly (fun p => p = .i) s t) ∧
    (∃ t, exec (.ldF x) s = .next t ∧ t.i.toNat = (s.getV x).toNat * 5 + 0x050 ∧ ChangesOnly (fun p => p = .i) s t)

/-- spec/43_index_memory.md R194: three digits at `I`, `I+1`, `I+2`, or a fault and no byte written. Memory canonical. -/
def Obligations.BcdStoresThreeDigits : Prop :=
  ∀ (x : Reg) (s : State), s.mem.wf = true →
    decode (nibbles 0xF (regBits x) 0x3 0x3) = .ldB x ∧
    (s.i.toNat + 2 > 4095 →
      ∃ t, exec (.ldB x) s = .next t ∧ FaultTaken .memWriteRange (max s.i.toNat 4096) s t) ∧
    (s.i.toNat + 2 ≤ 4095 →
      ∃ t, exec (.ldB x) s = .next t ∧
        (t.peek (s.effAddr 0)).toNat = (s.getV x).toNat / 100 ∧
        (t.peek (s.effAddr 1)).toNat = (s.getV x).toNat / 10 % 10 ∧
        (t.peek (s.effAddr 2)).toNat = (s.getV x).toNat % 10 ∧
        ChangesOnly (fun p => ∃ k : Nat, k < 3 ∧ p = .mem (s.effAddr k)) s t)

/-- spec/43_index_memory.md R195: `V0` to `Vx` at `I` on, or a fault and no byte written. Memory canonical. -/
def Obligations.DumpStoresTheRegisters : Prop :=
  ∀ (x : Reg) (s : State), s.mem.wf = true →
    decode (nibbles 0xF (regBits x) 0x5 0x5) = .dumpRegs x ∧
    (s.i.toNat + x.val > 4095 →
      ∃ t, exec (.dumpRegs x) s = .next t ∧ FaultTaken .memWriteRange (max s.i.toNat 4096) s t) ∧
    (s.i.toNat + x.val ≤ 4095 →
      ∃ t, exec (.dumpRegs x) s = .next t ∧ (∀ k : Reg, k.val ≤ x.val → t.peek (s.effAddr k.val) = s.getV k) ∧
        ChangesOnly (fun p => ∃ k : Nat, k ≤ x.val ∧ p = .mem (s.effAddr k)) s t)

/-- spec/43_index_memory.md R196: `V0` to `Vx` from `I` on, or a fault and no register written. -/
def Obligations.LoadFillsTheRegisters : Prop :=
  ∀ (x : Reg) (s : State),
    decode (nibbles 0xF (regBits x) 0x6 0x5) = .loadRegs x ∧
    (s.i.toNat + x.val > 4095 →
      ∃ t, exec (.loadRegs x) s = .next t ∧ FaultTaken .memReadRange (max s.i.toNat 4096) s t) ∧
    (s.i.toNat + x.val ≤ 4095 →
      ∃ t, exec (.loadRegs x) s = .next t ∧ (∀ k : Reg, k.val ≤ x.val → t.getV k = s.peek (s.effAddr k.val)) ∧
        ChangesOnly (fun p => ∃ k : Reg, k.val ≤ x.val ∧ p = .v k) s t)

/-- spec/43_index_memory.md R196, its round trip: registers dumped and loaded back, whatever happened between as long as `I` and
the memory are as the dump left them, are what they were. -/
def Obligations.DumpThenLoadGivesTheRegistersBack : Prop :=
  ∀ (x : Reg) (s t u : State), s.mem.wf = true → s.i.toNat + x.val ≤ 4095 → exec (.dumpRegs x) s = .next t →
    u.i = t.i → (∀ a : Nat, u.peek a = t.peek a) →
    ∃ u', exec (.loadRegs x) u = .next u' ∧ ∀ k : Reg, k.val ≤ x.val → u'.getV k = s.getV k

/-! ### Graphics -/

/-- spec/44_graphics.md R211: every pixel off, `VF` unchanged. -/
def Obligations.ClearScreenTurnsEveryPixelOff : Prop :=
  ∀ (m : Nibble) (s : State),
    decode (nibbles 0x0 m 0xE 0x0) = .cls m ∧
    ∃ t, exec (.cls m) s = .next t ∧ (∀ (r : Fin 32) (c : Fin 64), t.pixel r c = false) ∧
      ChangesOnly (fun p => ∃ r c, p = .pixel r c) s t

/-- spec/44_graphics.md R212, R210: the sequential drawing toggles exactly the pixels under a set bit, wrapped in both
directions, and reports a collision exactly if one of them was on; or a fault and no effect. -/
def Obligations.DrawTogglesPixelsUnderSetBits : Prop :=
  ∀ (x y : Reg) (n : Fin 16) (s : State),
    decode (nibbles 0xD (regBits x) (regBits y) (regBits n)) = .drw x y n ∧
    (n.val > 0 → s.i.toNat + n.val - 1 > 4095 →
      ∃ t, exec (.drw x y n) s = .next t ∧ FaultTaken .memReadRange (max s.i.toNat 4096) s t) ∧
    (n.val = 0 ∨ s.i.toNat + n.val - 1 ≤ 4095 →
      ∃ t, exec (.drw x y n) s = .next t ∧
        (∀ (r : Fin 32) (c : Fin 64), SpriteCovers s x y n.val r c → t.pixel r c = !(s.pixel r c)) ∧
        (∀ (r : Fin 32) (c : Fin 64), ¬ SpriteCovers s x y n.val r c → t.pixel r c = s.pixel r c) ∧
        ((∃ r c, SpriteCovers s x y n.val r c ∧ s.pixel r c = true) → t.getV VF = 1) ∧
        ((¬ ∃ r c, SpriteCovers s x y n.val r c ∧ s.pixel r c = true) → t.getV VF = 0) ∧
        ChangesOnly (fun p => p = .v VF ∨ ∃ r c, p = .pixel r c) s t)

/-- spec/44_graphics.md R213 (a): drawing the same sprite at the same place twice gives every pixel back, and on pixels that
were dark the first draw reports no collision and the second one does exactly if the sprite has a set bit. -/
def Obligations.DrawingTwiceRestoresTheScreen : Prop :=
  ∀ (x y : Reg) (n : Fin 16) (s t : State), x ≠ VF → y ≠ VF → faultOf (.drw x y n) s = none →
    exec (.drw x y n) s = .next t →
    ∃ u, exec (.drw x y n) t = .next u ∧ (∀ (r : Fin 32) (c : Fin 64), u.pixel r c = s.pixel r c) ∧
      ((∀ (r : Fin 32) (c : Fin 64), SpriteCovers s x y n.val r c → s.pixel r c = false) →
        t.getV VF = 0 ∧
        ((∃ row col : Nat, row < n.val ∧ col < 8 ∧ (s.peek (s.i.toNat + row)).getLsbD col = true) ↔
          u.getV VF = 1) ∧
        (u.getV VF = 0 ∨ u.getV VF = 1))

/-! ### Keypad and timers -/

/-- spec/45_timer_keypad.md R226, R227: the whole byte is the key index; above 15 it faults. -/
def Obligations.SkipsOnAKey : Prop :=
  ∀ (x : Reg) (s : State),
    decode (nibbles 0xE (regBits x) 0x9 0xE) = .skp x ∧ decode (nibbles 0xE (regBits x) 0xA 0x1) = .sknp x ∧
    ((s.getV x).toNat > 15 →
      (∃ t, exec (.skp x) s = .next t ∧ FaultTaken .keyIndexRange (s.getV x).toNat s t) ∧
      (∃ t, exec (.sknp x) s = .next t ∧ FaultTaken .keyIndexRange (s.getV x).toNat s t)) ∧
    ((s.getV x).toNat ≤ 15 →
      (∃ t, exec (.skp x) s = .next t ∧
        t.pc = (if s.key (s.getV x).toNat = true then s.pc + 2 else s.pc) ∧ ChangesOnly (fun p => p = .pc) s t) ∧
      (∃ t, exec (.sknp x) s = .next t ∧
        t.pc = (if s.key (s.getV x).toNat = false then s.pc + 2 else s.pc) ∧ ChangesOnly (fun p => p = .pc) s t))

/-- spec/45_timer_keypad.md R229: with no key down `PC` goes back; else the lowest key held down. The third clause is the
waiting cycle, in which the timers run. -/
def Obligations.KeyWaitTakesTheLowestKey : Prop :=
  ∀ (x : Reg) (s : State),
    decode (nibbles 0xF (regBits x) 0x0 0xA) = .ldVxK x ∧
    ((∀ k : Nat, k < 16 → s.key k = false) →
      ∃ t, exec (.ldVxK x) s = .next t ∧ t.pc = s.pc - 2 ∧ ChangesOnly (fun p => p = .pc) s t) ∧
    (∀ k : Nat, k < 16 → s.key k = true → (∀ j : Nat, j < k → s.key j = false) →
      ∃ t, exec (.ldVxK x) s = .next t ∧ (t.getV x).toNat = k ∧ ChangesOnly (fun p => p = .v x) s t) ∧
    (s.ready → decode s.nextWord = .ldVxK x → (∀ k : Nat, k < 16 → s.key k = false) →
      ∃ t, step s = .next t ∧ t.pc = s.pc ∧ t.dt = (if s.dt = 0 then 0 else s.dt - 1) ∧
        t.st = (if s.st = 0 then 0 else s.st - 1) ∧
        ChangesOnly (fun p => p = .dt ∨ p = .st ∨ p = .opcode) s t)

/-- spec/45_timer_keypad.md R228, R230, R231: at the end of the execute phase, and at the end of the cycle, whose timer phase
acts on the value loaded and not on the value read. -/
def Obligations.TimerTransfers : Prop :=
  ∀ (x : Reg) (s : State),
    decode (nibbles 0xF (regBits x) 0x0 0x7) = .ldVxDT x ∧ decode (nibbles 0xF (regBits x) 0x1 0x5) = .ldDTVx x ∧
    decode (nibbles 0xF (regBits x) 0x1 0x8) = .ldSTVx x ∧
    (∃ t, exec (.ldVxDT x) s = .next t ∧ t.getV x = s.dt ∧ ChangesOnly (fun p => p = .v x) s t) ∧
    (∃ t, exec (.ldDTVx x) s = .next t ∧ t.dt = s.getV x ∧ ChangesOnly (fun p => p = .dt) s t) ∧
    (∃ t, exec (.ldSTVx x) s = .next t ∧ t.st = s.getV x ∧ ChangesOnly (fun p => p = .st) s t) ∧
    (s.ready →
      (decode s.nextWord = .ldVxDT x →
        ∃ t, step s = .next t ∧ t.getV x = s.dt ∧ t.dt = (if s.dt = 0 then 0 else s.dt - 1)) ∧
      (decode s.nextWord = .ldDTVx x →
        ∃ t, step s = .next t ∧ t.dt = (if s.getV x = 0 then 0 else s.getV x - 1)) ∧
      (decode s.nextWord = .ldSTVx x →
        ∃ t, step s = .next t ∧ t.st = (if s.getV x = 0 then 0 else s.getV x - 1)))

/-! ### The default font -/

/-- The model's choice (log entry 1, PRESUMED): `State.reset` is the reset state of the machine whose FONT_DATA is the default
table of spec/20_memory.md R64, row `k` of glyph `d` at 0x050 + 5d + k. -/
def Obligations.ResetHasTheDefaultFont : Prop :=
  State.resetWith defaultFont = State.reset ∧ fontGlyphs.length = 16 ∧
  ∀ (d : Fin 16) (k : Fin 5), State.reset.peek (0x050 + 5 * d.val + k.val) = (fontGlyphs.getD d.val []).getD k.val 0
end

