-- ==== Sys2Proof/Laws/Decode.lean ====
section
/-! SUPPORT. The fields of a word put together from its parts, and a word put together again from its fields. -/

namespace Sys2Proof.Machine

@[simp] theorem bitsReg_regBits (x : Fin 16) : bitsReg (regBits x) = x := rfl

@[simp] theorem regBits_bitsReg (b : Nibble) : regBits (bitsReg b) = b := rfl

/-! ### Words of four digits -/

@[simp] theorem groupOf_nibbles (a b c d : Nibble) : groupOf (nibbles a b c d) = a := by
  ext i hi
  simp only [groupOf, nibbles, BitVec.getElem_extractLsb', BitVec.getLsbD_append]
  grind

@[simp] theorem xOf_nibbles (a b c d : Nibble) : xOf (nibbles a b c d) = b := by
  ext i hi
  simp only [xOf, nibbles, BitVec.getElem_extractLsb', BitVec.getLsbD_append]
  grind

@[simp] theorem yOf_nibbles (a b c d : Nibble) : yOf (nibbles a b c d) = c := by
  ext i hi
  simp only [yOf, nibbles, BitVec.getElem_extractLsb', BitVec.getLsbD_append]
  grind

@[simp] theorem nOf_nibbles (a b c d : Nibble) : nOf (nibbles a b c d) = d := by
  ext i hi
  simp only [nOf, nibbles, BitVec.getElem_extractLsb', BitVec.getLsbD_append]
  grind

@[simp] theorem kkOf_nibbles (a b c d : Nibble) : kkOf (nibbles a b c d) = c ++ d := by
  ext i hi
  simp only [kkOf, nibbles, BitVec.getElem_extractLsb', BitVec.getLsbD_append]
  grind

/-! ### A digit and an address, a digit, a register and a byte -/

@[simp] theorem groupOf_addr (a : Nibble) (nnn : Addr12) : groupOf (a ++ nnn) = a := by
  ext i hi
  simp only [groupOf, BitVec.getElem_extractLsb', BitVec.getLsbD_append]
  grind

@[simp] theorem nnnOf_addr (a : Nibble) (nnn : Addr12) : nnnOf (a ++ nnn) = nnn := by
  ext i hi
  simp only [nnnOf, BitVec.getElem_extractLsb', BitVec.getLsbD_append]
  grind

@[simp] theorem groupOf_imm (a x : Nibble) (kk : Byte) : groupOf (a ++ x ++ kk) = a := by
  ext i hi
  simp only [groupOf, BitVec.getElem_extractLsb', BitVec.getLsbD_append]
  grind

@[simp] theorem xOf_imm (a x : Nibble) (kk : Byte) : xOf (a ++ x ++ kk) = x := by
  ext i hi
  simp only [xOf, BitVec.getElem_extractLsb', BitVec.getLsbD_append]
  grind

@[simp] theorem kkOf_imm (a x : Nibble) (kk : Byte) : kkOf (a ++ x ++ kk) = kk := by
  ext i hi
  simp only [kkOf, BitVec.getElem_extractLsb', BitVec.getLsbD_append]
  grind

/-! ### A word from its fields -/

theorem nibbles_fields (w : Word) : nibbles (groupOf w) (xOf w) (yOf w) (nOf w) = w := by
  ext i hi
  simp only [groupOf, xOf, yOf, nOf, nibbles]
  grind

theorem addr_fields (w : Word) : groupOf w ++ nnnOf w = w := by
  ext i hi
  simp only [groupOf, nnnOf, BitVec.getElem_append, BitVec.getElem_extractLsb']
  grind

theorem imm_fields (w : Word) : groupOf w ++ xOf w ++ kkOf w = w := by
  ext i hi
  simp only [groupOf, xOf, kkOf, BitVec.getElem_append, BitVec.getElem_extractLsb']
  grind

theorem kkOf_eq_digits (w : Word) : kkOf w = yOf w ++ nOf w := by
  ext i hi
  simp only [yOf, nOf, kkOf, BitVec.getElem_extractLsb']
  grind

/-- Two digits are determined by the byte they spell. -/
theorem digits_inj {a b c d : Nibble} (h : a ++ b = c ++ d) : a = c ∧ b = d := by
  have key : ∀ p q : Nibble, (p ++ q).toNat = p.toNat * 16 + q.toNat := by
    intro p q
    rw [BitVec.toNat_append, ← Nat.shiftLeft_add_eq_or_of_lt q.isLt, Nat.shiftLeft_eq]
  have hn := congrArg BitVec.toNat h
  rw [key, key] at hn
  have := b.isLt
  have := d.isLt
  exact ⟨BitVec.eq_of_toNat_eq (by omega), BitVec.eq_of_toNat_eq (by omega)⟩

/-- The sixteen digits. -/
theorem digit_cases (g : Nibble) :
    g = 0x0 ∨ g = 0x1 ∨ g = 0x2 ∨ g = 0x3 ∨ g = 0x4 ∨ g = 0x5 ∨ g = 0x6 ∨ g = 0x7 ∨
      g = 0x8 ∨ g = 0x9 ∨ g = 0xA ∨ g = 0xB ∨ g = 0xC ∨ g = 0xD ∨ g = 0xE ∨ g = 0xF := by
  revert g
  decide

/-- Laid out high byte first and packed again, a word is itself (spec/20_memory.md R66). -/
@[simp] theorem packWord_bytes (w : Word) : packWord (highByte w) (lowByte w) = w := by
  ext i hi
  simp only [packWord, highByte, lowByte]
  grind

@[simp] theorem tableWord_full (w : Word) : tableWord 16 w.toNat = w := by
  apply BitVec.eq_of_toNat_eq
  simp only [tableWord, BitVec.toNat_ofNat]
  omega

/-- What the table's own words decode to. -/
theorem decodeTableWord_eq (nbits w : Nat) : decodeTableWord nbits w = some (decode (tableWord nbits w)) := by
  simp [decodeTableWord, decodeBytes]

end Sys2Proof.Machine
end

