-- ==== Sys2Proof/Laws/Memory.lean ====
section
/-! SUPPORT. Memory: read after write, what a write leaves alone, that every memory operation keeps the canonical form, and
that the canonical form makes equal memories equal data. -/

namespace Sys2Proof.Machine

@[simp] theorem Memory.read_nil (a : Nat) : Memory.read [] a = resetByte a := rfl

@[simp] theorem Memory.read_cons (c : Nat) (d : Byte) (m : Memory) (a : Nat) :
    Memory.read ((c, d) :: m) a = if a = c then d else m.read a := rfl

theorem Memory.wfFrom_cons (lo a : Nat) (b : Byte) (m : Memory) :
    Memory.wfFrom lo ((a, b) :: m) = true ↔
      lo ≤ a ∧ a < 4096 ∧ b ≠ resetByte a ∧ Memory.wfFrom (a + 1) m = true := by
  simp [Memory.wfFrom, and_assoc]

theorem Memory.wfFrom_mono {lo lo' : Nat} {m : Memory} (h : lo' ≤ lo) (hm : Memory.wfFrom lo m = true) :
    Memory.wfFrom lo' m = true := by
  cases m with
  | nil => rfl
  | cons p m =>
    obtain ⟨a, b⟩ := p
    rw [Memory.wfFrom_cons] at hm ⊢
    exact ⟨le_trans h hm.1, hm.2⟩

/-- An address below every listed one reads as its reset contents. -/
theorem Memory.read_below {lo a : Nat} {m : Memory} (hm : Memory.wfFrom lo m = true) (h : a < lo) :
    m.read a = resetByte a := by
  induction m generalizing lo with
  | nil => rfl
  | cons p m ih =>
    obtain ⟨c, d⟩ := p
    rw [Memory.wfFrom_cons] at hm
    rw [Memory.read_cons, if_neg (by omega), ih hm.2.2.2 (by omega)]

theorem Memory.wfFrom_put {lo a : Nat} {m : Memory} (b : Byte) (hm : Memory.wfFrom (a + 1) m = true) (hlo : lo ≤ a)
    (ha : a < 4096) : Memory.wfFrom lo (m.put a b) = true := by
  unfold Memory.put
  split
  · exact Memory.wfFrom_mono (by omega) hm
  · rw [Memory.wfFrom_cons]
    exact ⟨hlo, ha, ‹_›, hm⟩

theorem Memory.wfFrom_write {lo a : Nat} {m : Memory} (b : Byte) (hm : Memory.wfFrom lo m = true) (hlo : lo ≤ a)
    (ha : a < 4096) : Memory.wfFrom lo (m.write a b) = true := by
  induction m generalizing lo with
  | nil => exact Memory.wfFrom_put b rfl hlo ha
  | cons p m ih =>
    obtain ⟨c, d⟩ := p
    have hm' := hm
    rw [Memory.wfFrom_cons] at hm'
    obtain ⟨h1, h2, h3, h4⟩ := hm'
    rw [Memory.write]
    split
    · refine Memory.wfFrom_put b ?_ hlo ha
      rw [Memory.wfFrom_cons]
      exact ⟨by omega, h2, h3, h4⟩
    · split
      · subst a
        exact Memory.wfFrom_put b h4 h1 h2
      · rw [Memory.wfFrom_cons]
        exact ⟨h1, h2, h3, ih h4 (by omega)⟩

/-- A write inside memory keeps the canonical form. -/
theorem Memory.wf_write {a : Nat} {m : Memory} (b : Byte) (hm : m.wf = true) (ha : a < 4096) :
    (m.write a b).wf = true :=
  Memory.wfFrom_write b hm (Nat.zero_le a) ha

/-- Writing bytes inside memory keeps the canonical form. -/
theorem Memory.wf_writeBytes {a : Nat} {m : Memory} {bs : List Byte} (hm : m.wf = true) (ha : a + bs.length ≤ 4096) :
    (m.writeBytes a bs).wf = true := by
  induction bs generalizing m a with
  | nil => exact hm
  | cons b bs ih =>
    rw [List.length_cons] at ha
    exact ih (Memory.wf_write b hm (by omega)) (by omega)

theorem Memory.read_put_ne (m : Memory) {a j : Nat} (b : Byte) (h : j ≠ a) : (m.put a b).read j = m.read j := by
  unfold Memory.put
  split
  · rfl
  · rw [Memory.read_cons, if_neg h]

theorem Memory.read_put_self {m : Memory} {a : Nat} (b : Byte) (hm : Memory.wfFrom (a + 1) m = true) :
    (m.put a b).read a = b := by
  unfold Memory.put
  split
  · rw [Memory.read_below hm (by omega)]
    exact Eq.symm ‹_›
  · simp

/-- A write leaves every other address alone, in any memory. -/
theorem Memory.read_write_ne (m : Memory) {a j : Nat} (b : Byte) (h : j ≠ a) : (m.write a b).read j = m.read j := by
  induction m with
  | nil => exact Memory.read_put_ne [] b h
  | cons p m ih =>
    obtain ⟨c, d⟩ := p
    rw [Memory.write]
    split
    · exact Memory.read_put_ne _ b h
    · split
      · subst c
        rw [Memory.read_put_ne _ b h, Memory.read_cons, if_neg h]
      · rw [Memory.read_cons, Memory.read_cons, ih]

theorem Memory.read_write_self_from {lo a : Nat} {m : Memory} (b : Byte) (hm : Memory.wfFrom lo m = true) :
    (m.write a b).read a = b := by
  induction m generalizing lo with
  | nil => exact Memory.read_put_self b rfl
  | cons p m ih =>
    obtain ⟨c, d⟩ := p
    rw [Memory.wfFrom_cons] at hm
    obtain ⟨h1, h2, h3, h4⟩ := hm
    rw [Memory.write]
    split
    · refine Memory.read_put_self b ?_
      rw [Memory.wfFrom_cons]
      exact ⟨by omega, h2, h3, h4⟩
    · split
      · subst a
        exact Memory.read_put_self b h4
      · rw [Memory.read_cons, if_neg ‹_›, ih h4]

/-- Read after write, in a canonical memory. -/
theorem Memory.read_write {m : Memory} (hm : m.wf = true) (a j : Nat) (b : Byte) :
    (m.write a b).read j = if j = a then b else m.read j := by
  split
  · subst j
    exact Memory.read_write_self_from b hm
  · exact Memory.read_write_ne m b ‹_›

/-- Writing bytes leaves every address outside them alone, in any memory. -/
theorem Memory.read_writeBytes_outside (m : Memory) (a j : Nat) (bs : List Byte) (h : j < a ∨ a + bs.length ≤ j) :
    (m.writeBytes a bs).read j = m.read j := by
  induction bs generalizing m a with
  | nil => rfl
  | cons b bs ih =>
    rw [List.length_cons] at h
    rw [Memory.writeBytes, ih _ _ (by omega), Memory.read_write_ne m b (by omega)]

/-- The bytes written are the bytes read, in a canonical memory. -/
theorem Memory.read_writeBytes_inside {m : Memory} (hm : m.wf = true) {a : Nat} {bs : List Byte}
    (ha : a + bs.length ≤ 4096) {k : Nat} (hk : k < bs.length) : (m.writeBytes a bs).read (a + k) = bs[k] := by
  induction bs generalizing m a k with
  | nil => exact absurd hk (Nat.not_lt_zero k)
  | cons b bs ih =>
    rw [List.length_cons] at ha hk
    have hm' := Memory.wf_write b hm (show a < 4096 by omega)
    rw [Memory.writeBytes]
    cases k with
    | zero =>
      rw [Memory.read_writeBytes_outside _ _ _ _ (by omega), Memory.read_write hm]
      simp
    | succ k =>
      rw [show a + (k + 1) = a + 1 + k by omega, ih hm' (by omega) (by omega)]
      simp

@[simp] theorem Memory.length_readBytes (m : Memory) (a n : Nat) : (m.readBytes a n).length = n := by
  induction n generalizing a with
  | zero => rfl
  | succ n ih => simp [Memory.readBytes, ih]

@[simp] theorem Memory.getElem_readBytes (m : Memory) (a n k : Nat) (h : k < (m.readBytes a n).length) :
    (m.readBytes a n)[k] = m.read (a + k) := by
  induction n generalizing a k with
  | zero => exact absurd h (by simp)
  | succ n ih =>
    cases k with
    | zero => rfl
    | succ k =>
      simp only [Memory.readBytes, List.getElem_cons_succ]
      rw [ih (a + 1) k (by simpa using h)]
      congr 1
      omega

/-- Two memories read alike from `lo` on. -/
theorem Memory.ext_from {lo : Nat} {m m' : Memory} (hm : Memory.wfFrom lo m = true) (hm' : Memory.wfFrom lo m' = true)
    (h : ∀ a, m.read a = m'.read a) : m = m' := by
  induction m generalizing lo m' with
  | nil =>
    cases m' with
    | nil => rfl
    | cons p m' =>
      obtain ⟨c, d⟩ := p
      rw [Memory.wfFrom_cons] at hm'
      exact absurd (h c) (by simpa using Ne.symm hm'.2.2.1)
  | cons p m ih =>
    obtain ⟨a, b⟩ := p
    rw [Memory.wfFrom_cons] at hm
    obtain ⟨h1, h2, h3, h4⟩ := hm
    cases m' with
    | nil => exact absurd (h a) (by simpa using h3)
    | cons p' m' =>
      obtain ⟨c, d⟩ := p'
      rw [Memory.wfFrom_cons] at hm'
      obtain ⟨g1, g2, g3, g4⟩ := hm'
      have hac : a = c := by
        rcases Nat.lt_trichotomy a c with hlt | heq | hgt
        · have := h a
          rw [Memory.read_cons, if_pos rfl, Memory.read_cons, if_neg (by omega),
            Memory.read_below g4 (by omega)] at this
          exact absurd this h3
        · exact heq
        · have := h c
          rw [Memory.read_cons, if_neg (by omega), Memory.read_cons, if_pos rfl,
            Memory.read_below h4 (by omega)] at this
          exact absurd this.symm g3
      subst hac
      have hb : b = d := by simpa using h a
      subst hb
      rw [ih h4 g4 ?_]
      intro j
      have hj := h j
      by_cases hja : j = a
      · subst hja
        rw [Memory.read_below h4 (by omega), Memory.read_below g4 (by omega)]
      · simpa [hja] using hj

/-- Canonical memories that read alike are the same list. -/
theorem Memory.eq_of_read_eq {m m' : Memory} (hm : m.wf = true) (hm' : m'.wf = true) (h : ∀ a, m.read a = m'.read a) :
    m = m' :=
  Memory.ext_from hm hm' h

/-- Nothing outside memory is listed: such an address reads as its reset contents, 0. -/
theorem Memory.read_outside {m : Memory} (hm : m.wf = true) {a : Nat} (ha : 4096 ≤ a) : m.read a = 0 := by
  have key : ∀ (m : Memory) (lo : Nat), Memory.wfFrom lo m = true → m.read a = resetByte a := by
    intro m
    induction m with
    | nil => intro lo _; rfl
    | cons p m ih =>
      obtain ⟨c, d⟩ := p
      intro lo h
      rw [Memory.wfFrom_cons] at h
      rw [Memory.read_cons, if_neg (by omega), ih _ h.2.2.2]
  rw [key m 0 hm, resetByte, if_neg (by simp; omega)]

end Sys2Proof.Machine
end

