-- ==== Sys2Proof/Laws/State.lean ====
section
/-! SUPPORT. One lemma per field per update, true by rfl, and the same for the views of the state that an update leaves
alone, so that no proof unfolds a record update. -/

namespace Sys2Proof.Machine


/-! ### `State.setV` -/

@[simp] theorem State.setV_v (s : State) (x : Reg) (b : Byte) : (s.setV x b).v = s.v.set x b := rfl
@[simp] theorem State.setV_pc (s : State) (x : Reg) (b : Byte) : (s.setV x b).pc = s.pc := rfl
@[simp] theorem State.setV_i (s : State) (x : Reg) (b : Byte) : (s.setV x b).i = s.i := rfl
@[simp] theorem State.setV_stack (s : State) (x : Reg) (b : Byte) : (s.setV x b).stack = s.stack := rfl
@[simp] theorem State.setV_sp (s : State) (x : Reg) (b : Byte) : (s.setV x b).sp = s.sp := rfl
@[simp] theorem State.setV_dt (s : State) (x : Reg) (b : Byte) : (s.setV x b).dt = s.dt := rfl
@[simp] theorem State.setV_st (s : State) (x : Reg) (b : Byte) : (s.setV x b).st = s.st := rfl
@[simp] theorem State.setV_mem (s : State) (x : Reg) (b : Byte) : (s.setV x b).mem = s.mem := rfl
@[simp] theorem State.setV_vid (s : State) (x : Reg) (b : Byte) : (s.setV x b).vid = s.vid := rfl
@[simp] theorem State.setV_opcode (s : State) (x : Reg) (b : Byte) : (s.setV x b).opcode = s.opcode := rfl
@[simp] theorem State.setV_fault (s : State) (x : Reg) (b : Byte) : (s.setV x b).fault = s.fault := rfl
@[simp] theorem State.setV_loadErr (s : State) (x : Reg) (b : Byte) : (s.setV x b).loadErr = s.loadErr := rfl
@[simp] theorem State.setV_keys (s : State) (x : Reg) (b : Byte) : (s.setV x b).keys = s.keys := rfl
@[simp] theorem State.setV_draws (s : State) (x : Reg) (b : Byte) : (s.setV x b).draws = s.draws := rfl
@[simp] theorem State.setV_peek (s : State) (x : Reg) (b : Byte) (a : Nat) : (s.setV x b).peek a = s.peek a := rfl
@[simp] theorem State.setV_pixel (s : State) (x : Reg) (b : Byte) (r : Fin 32) (c : Fin 64) : (s.setV x b).pixel r c = s.pixel r c := rfl
@[simp] theorem State.setV_key (s : State) (x : Reg) (b : Byte) (k : Nat) : (s.setV x b).key k = s.key k := rfl
@[simp] theorem State.setV_draw (s : State) (x : Reg) (b : Byte) : (s.setV x b).draw = s.draw := rfl
@[simp] theorem State.setV_pc0 (s : State) (x : Reg) (b : Byte) : (s.setV x b).pc0 = s.pc0 := rfl
@[simp] theorem State.setV_effAddr (s : State) (x : Reg) (b : Byte) (k : Nat) : (s.setV x b).effAddr k = s.effAddr k := rfl
@[simp] theorem State.setV_inRange (s : State) (x : Reg) (b : Byte) (n : Nat) : (s.setV x b).inRange n = s.inRange n := rfl
@[simp] theorem State.setV_rangeInfo (s : State) (x : Reg) (b : Byte) : (s.setV x b).rangeInfo = s.rangeInfo := rfl
@[simp] theorem State.setV_lowestKey (s : State) (x : Reg) (b : Byte) : (s.setV x b).lowestKey = s.lowestKey := rfl

/-! ### `State.setPC` -/

@[simp] theorem State.setPC_v (s : State) (w : Word) : (s.setPC w).v = s.v := rfl
@[simp] theorem State.setPC_pc (s : State) (w : Word) : (s.setPC w).pc = w := rfl
@[simp] theorem State.setPC_i (s : State) (w : Word) : (s.setPC w).i = s.i := rfl
@[simp] theorem State.setPC_stack (s : State) (w : Word) : (s.setPC w).stack = s.stack := rfl
@[simp] theorem State.setPC_sp (s : State) (w : Word) : (s.setPC w).sp = s.sp := rfl
@[simp] theorem State.setPC_dt (s : State) (w : Word) : (s.setPC w).dt = s.dt := rfl
@[simp] theorem State.setPC_st (s : State) (w : Word) : (s.setPC w).st = s.st := rfl
@[simp] theorem State.setPC_mem (s : State) (w : Word) : (s.setPC w).mem = s.mem := rfl
@[simp] theorem State.setPC_vid (s : State) (w : Word) : (s.setPC w).vid = s.vid := rfl
@[simp] theorem State.setPC_opcode (s : State) (w : Word) : (s.setPC w).opcode = s.opcode := rfl
@[simp] theorem State.setPC_fault (s : State) (w : Word) : (s.setPC w).fault = s.fault := rfl
@[simp] theorem State.setPC_loadErr (s : State) (w : Word) : (s.setPC w).loadErr = s.loadErr := rfl
@[simp] theorem State.setPC_keys (s : State) (w : Word) : (s.setPC w).keys = s.keys := rfl
@[simp] theorem State.setPC_draws (s : State) (w : Word) : (s.setPC w).draws = s.draws := rfl
@[simp] theorem State.setPC_getV (s : State) (w : Word) (y : Reg) : (s.setPC w).getV y = s.getV y := rfl
@[simp] theorem State.setPC_peek (s : State) (w : Word) (a : Nat) : (s.setPC w).peek a = s.peek a := rfl
@[simp] theorem State.setPC_pixel (s : State) (w : Word) (r : Fin 32) (c : Fin 64) : (s.setPC w).pixel r c = s.pixel r c := rfl
@[simp] theorem State.setPC_key (s : State) (w : Word) (k : Nat) : (s.setPC w).key k = s.key k := rfl
@[simp] theorem State.setPC_draw (s : State) (w : Word) : (s.setPC w).draw = s.draw := rfl
@[simp] theorem State.setPC_effAddr (s : State) (w : Word) (k : Nat) : (s.setPC w).effAddr k = s.effAddr k := rfl
@[simp] theorem State.setPC_inRange (s : State) (w : Word) (n : Nat) : (s.setPC w).inRange n = s.inRange n := rfl
@[simp] theorem State.setPC_rangeInfo (s : State) (w : Word) : (s.setPC w).rangeInfo = s.rangeInfo := rfl
@[simp] theorem State.setPC_lowestKey (s : State) (w : Word) : (s.setPC w).lowestKey = s.lowestKey := rfl

/-! ### `State.setI` -/

@[simp] theorem State.setI_v (s : State) (w : Word) : (s.setI w).v = s.v := rfl
@[simp] theorem State.setI_pc (s : State) (w : Word) : (s.setI w).pc = s.pc := rfl
@[simp] theorem State.setI_i (s : State) (w : Word) : (s.setI w).i = w := rfl
@[simp] theorem State.setI_stack (s : State) (w : Word) : (s.setI w).stack = s.stack := rfl
@[simp] theorem State.setI_sp (s : State) (w : Word) : (s.setI w).sp = s.sp := rfl
@[simp] theorem State.setI_dt (s : State) (w : Word) : (s.setI w).dt = s.dt := rfl
@[simp] theorem State.setI_st (s : State) (w : Word) : (s.setI w).st = s.st := rfl
@[simp] theorem State.setI_mem (s : State) (w : Word) : (s.setI w).mem = s.mem := rfl
@[simp] theorem State.setI_vid (s : State) (w : Word) : (s.setI w).vid = s.vid := rfl
@[simp] theorem State.setI_opcode (s : State) (w : Word) : (s.setI w).opcode = s.opcode := rfl
@[simp] theorem State.setI_fault (s : State) (w : Word) : (s.setI w).fault = s.fault := rfl
@[simp] theorem State.setI_loadErr (s : State) (w : Word) : (s.setI w).loadErr = s.loadErr := rfl
@[simp] theorem State.setI_keys (s : State) (w : Word) : (s.setI w).keys = s.keys := rfl
@[simp] theorem State.setI_draws (s : State) (w : Word) : (s.setI w).draws = s.draws := rfl
@[simp] theorem State.setI_getV (s : State) (w : Word) (y : Reg) : (s.setI w).getV y = s.getV y := rfl
@[simp] theorem State.setI_peek (s : State) (w : Word) (a : Nat) : (s.setI w).peek a = s.peek a := rfl
@[simp] theorem State.setI_pixel (s : State) (w : Word) (r : Fin 32) (c : Fin 64) : (s.setI w).pixel r c = s.pixel r c := rfl
@[simp] theorem State.setI_key (s : State) (w : Word) (k : Nat) : (s.setI w).key k = s.key k := rfl
@[simp] theorem State.setI_draw (s : State) (w : Word) : (s.setI w).draw = s.draw := rfl
@[simp] theorem State.setI_pc0 (s : State) (w : Word) : (s.setI w).pc0 = s.pc0 := rfl
@[simp] theorem State.setI_lowestKey (s : State) (w : Word) : (s.setI w).lowestKey = s.lowestKey := rfl

/-! ### `State.setDT` -/

@[simp] theorem State.setDT_v (s : State) (b : Byte) : (s.setDT b).v = s.v := rfl
@[simp] theorem State.setDT_pc (s : State) (b : Byte) : (s.setDT b).pc = s.pc := rfl
@[simp] theorem State.setDT_i (s : State) (b : Byte) : (s.setDT b).i = s.i := rfl
@[simp] theorem State.setDT_stack (s : State) (b : Byte) : (s.setDT b).stack = s.stack := rfl
@[simp] theorem State.setDT_sp (s : State) (b : Byte) : (s.setDT b).sp = s.sp := rfl
@[simp] theorem State.setDT_dt (s : State) (b : Byte) : (s.setDT b).dt = b := rfl
@[simp] theorem State.setDT_st (s : State) (b : Byte) : (s.setDT b).st = s.st := rfl
@[simp] theorem State.setDT_mem (s : State) (b : Byte) : (s.setDT b).mem = s.mem := rfl
@[simp] theorem State.setDT_vid (s : State) (b : Byte) : (s.setDT b).vid = s.vid := rfl
@[simp] theorem State.setDT_opcode (s : State) (b : Byte) : (s.setDT b).opcode = s.opcode := rfl
@[simp] theorem State.setDT_fault (s : State) (b : Byte) : (s.setDT b).fault = s.fault := rfl
@[simp] theorem State.setDT_loadErr (s : State) (b : Byte) : (s.setDT b).loadErr = s.loadErr := rfl
@[simp] theorem State.setDT_keys (s : State) (b : Byte) : (s.setDT b).keys = s.keys := rfl
@[simp] theorem State.setDT_draws (s : State) (b : Byte) : (s.setDT b).draws = s.draws := rfl
@[simp] theorem State.setDT_getV (s : State) (b : Byte) (y : Reg) : (s.setDT b).getV y = s.getV y := rfl
@[simp] theorem State.setDT_peek (s : State) (b : Byte) (a : Nat) : (s.setDT b).peek a = s.peek a := rfl
@[simp] theorem State.setDT_pixel (s : State) (b : Byte) (r : Fin 32) (c : Fin 64) : (s.setDT b).pixel r c = s.pixel r c := rfl
@[simp] theorem State.setDT_key (s : State) (b : Byte) (k : Nat) : (s.setDT b).key k = s.key k := rfl
@[simp] theorem State.setDT_draw (s : State) (b : Byte) : (s.setDT b).draw = s.draw := rfl
@[simp] theorem State.setDT_pc0 (s : State) (b : Byte) : (s.setDT b).pc0 = s.pc0 := rfl
@[simp] theorem State.setDT_effAddr (s : State) (b : Byte) (k : Nat) : (s.setDT b).effAddr k = s.effAddr k := rfl
@[simp] theorem State.setDT_inRange (s : State) (b : Byte) (n : Nat) : (s.setDT b).inRange n = s.inRange n := rfl
@[simp] theorem State.setDT_rangeInfo (s : State) (b : Byte) : (s.setDT b).rangeInfo = s.rangeInfo := rfl
@[simp] theorem State.setDT_lowestKey (s : State) (b : Byte) : (s.setDT b).lowestKey = s.lowestKey := rfl

/-! ### `State.setST` -/

@[simp] theorem State.setST_v (s : State) (b : Byte) : (s.setST b).v = s.v := rfl
@[simp] theorem State.setST_pc (s : State) (b : Byte) : (s.setST b).pc = s.pc := rfl
@[simp] theorem State.setST_i (s : State) (b : Byte) : (s.setST b).i = s.i := rfl
@[simp] theorem State.setST_stack (s : State) (b : Byte) : (s.setST b).stack = s.stack := rfl
@[simp] theorem State.setST_sp (s : State) (b : Byte) : (s.setST b).sp = s.sp := rfl
@[simp] theorem State.setST_dt (s : State) (b : Byte) : (s.setST b).dt = s.dt := rfl
@[simp] theorem State.setST_st (s : State) (b : Byte) : (s.setST b).st = b := rfl
@[simp] theorem State.setST_mem (s : State) (b : Byte) : (s.setST b).mem = s.mem := rfl
@[simp] theorem State.setST_vid (s : State) (b : Byte) : (s.setST b).vid = s.vid := rfl
@[simp] theorem State.setST_opcode (s : State) (b : Byte) : (s.setST b).opcode = s.opcode := rfl
@[simp] theorem State.setST_fault (s : State) (b : Byte) : (s.setST b).fault = s.fault := rfl
@[simp] theorem State.setST_loadErr (s : State) (b : Byte) : (s.setST b).loadErr = s.loadErr := rfl
@[simp] theorem State.setST_keys (s : State) (b : Byte) : (s.setST b).keys = s.keys := rfl
@[simp] theorem State.setST_draws (s : State) (b : Byte) : (s.setST b).draws = s.draws := rfl
@[simp] theorem State.setST_getV (s : State) (b : Byte) (y : Reg) : (s.setST b).getV y = s.getV y := rfl
@[simp] theorem State.setST_peek (s : State) (b : Byte) (a : Nat) : (s.setST b).peek a = s.peek a := rfl
@[simp] theorem State.setST_pixel (s : State) (b : Byte) (r : Fin 32) (c : Fin 64) : (s.setST b).pixel r c = s.pixel r c := rfl
@[simp] theorem State.setST_key (s : State) (b : Byte) (k : Nat) : (s.setST b).key k = s.key k := rfl
@[simp] theorem State.setST_draw (s : State) (b : Byte) : (s.setST b).draw = s.draw := rfl
@[simp] theorem State.setST_pc0 (s : State) (b : Byte) : (s.setST b).pc0 = s.pc0 := rfl
@[simp] theorem State.setST_effAddr (s : State) (b : Byte) (k : Nat) : (s.setST b).effAddr k = s.effAddr k := rfl
@[simp] theorem State.setST_inRange (s : State) (b : Byte) (n : Nat) : (s.setST b).inRange n = s.inRange n := rfl
@[simp] theorem State.setST_rangeInfo (s : State) (b : Byte) : (s.setST b).rangeInfo = s.rangeInfo := rfl
@[simp] theorem State.setST_lowestKey (s : State) (b : Byte) : (s.setST b).lowestKey = s.lowestKey := rfl

/-! ### `State.setMem` -/

@[simp] theorem State.setMem_v (s : State) (m : Memory) : (s.setMem m).v = s.v := rfl
@[simp] theorem State.setMem_pc (s : State) (m : Memory) : (s.setMem m).pc = s.pc := rfl
@[simp] theorem State.setMem_i (s : State) (m : Memory) : (s.setMem m).i = s.i := rfl
@[simp] theorem State.setMem_stack (s : State) (m : Memory) : (s.setMem m).stack = s.stack := rfl
@[simp] theorem State.setMem_sp (s : State) (m : Memory) : (s.setMem m).sp = s.sp := rfl
@[simp] theorem State.setMem_dt (s : State) (m : Memory) : (s.setMem m).dt = s.dt := rfl
@[simp] theorem State.setMem_st (s : State) (m : Memory) : (s.setMem m).st = s.st := rfl
@[simp] theorem State.setMem_mem (s : State) (m : Memory) : (s.setMem m).mem = m := rfl
@[simp] theorem State.setMem_vid (s : State) (m : Memory) : (s.setMem m).vid = s.vid := rfl
@[simp] theorem State.setMem_opcode (s : State) (m : Memory) : (s.setMem m).opcode = s.opcode := rfl
@[simp] theorem State.setMem_fault (s : State) (m : Memory) : (s.setMem m).fault = s.fault := rfl
@[simp] theorem State.setMem_loadErr (s : State) (m : Memory) : (s.setMem m).loadErr = s.loadErr := rfl
@[simp] theorem State.setMem_keys (s : State) (m : Memory) : (s.setMem m).keys = s.keys := rfl
@[simp] theorem State.setMem_draws (s : State) (m : Memory) : (s.setMem m).draws = s.draws := rfl
@[simp] theorem State.setMem_getV (s : State) (m : Memory) (y : Reg) : (s.setMem m).getV y = s.getV y := rfl
@[simp] theorem State.setMem_pixel (s : State) (m : Memory) (r : Fin 32) (c : Fin 64) : (s.setMem m).pixel r c = s.pixel r c := rfl
@[simp] theorem State.setMem_key (s : State) (m : Memory) (k : Nat) : (s.setMem m).key k = s.key k := rfl
@[simp] theorem State.setMem_draw (s : State) (m : Memory) : (s.setMem m).draw = s.draw := rfl
@[simp] theorem State.setMem_pc0 (s : State) (m : Memory) : (s.setMem m).pc0 = s.pc0 := rfl
@[simp] theorem State.setMem_effAddr (s : State) (m : Memory) (k : Nat) : (s.setMem m).effAddr k = s.effAddr k := rfl
@[simp] theorem State.setMem_inRange (s : State) (m : Memory) (n : Nat) : (s.setMem m).inRange n = s.inRange n := rfl
@[simp] theorem State.setMem_rangeInfo (s : State) (m : Memory) : (s.setMem m).rangeInfo = s.rangeInfo := rfl
@[simp] theorem State.setMem_lowestKey (s : State) (m : Memory) : (s.setMem m).lowestKey = s.lowestKey := rfl

/-! ### `State.setVid` -/

@[simp] theorem State.setVid_v (s : State) (vid : Video) : (s.setVid vid).v = s.v := rfl
@[simp] theorem State.setVid_pc (s : State) (vid : Video) : (s.setVid vid).pc = s.pc := rfl
@[simp] theorem State.setVid_i (s : State) (vid : Video) : (s.setVid vid).i = s.i := rfl
@[simp] theorem State.setVid_stack (s : State) (vid : Video) : (s.setVid vid).stack = s.stack := rfl
@[simp] theorem State.setVid_sp (s : State) (vid : Video) : (s.setVid vid).sp = s.sp := rfl
@[simp] theorem State.setVid_dt (s : State) (vid : Video) : (s.setVid vid).dt = s.dt := rfl
@[simp] theorem State.setVid_st (s : State) (vid : Video) : (s.setVid vid).st = s.st := rfl
@[simp] theorem State.setVid_mem (s : State) (vid : Video) : (s.setVid vid).mem = s.mem := rfl
@[simp] theorem State.setVid_vid (s : State) (vid : Video) : (s.setVid vid).vid = vid := rfl
@[simp] theorem State.setVid_opcode (s : State) (vid : Video) : (s.setVid vid).opcode = s.opcode := rfl
@[simp] theorem State.setVid_fault (s : State) (vid : Video) : (s.setVid vid).fault = s.fault := rfl
@[simp] theorem State.setVid_loadErr (s : State) (vid : Video) : (s.setVid vid).loadErr = s.loadErr := rfl
@[simp] theorem State.setVid_keys (s : State) (vid : Video) : (s.setVid vid).keys = s.keys := rfl
@[simp] theorem State.setVid_draws (s : State) (vid : Video) : (s.setVid vid).draws = s.draws := rfl
@[simp] theorem State.setVid_getV (s : State) (vid : Video) (y : Reg) : (s.setVid vid).getV y = s.getV y := rfl
@[simp] theorem State.setVid_peek (s : State) (vid : Video) (a : Nat) : (s.setVid vid).peek a = s.peek a := rfl
@[simp] theorem State.setVid_key (s : State) (vid : Video) (k : Nat) : (s.setVid vid).key k = s.key k := rfl
@[simp] theorem State.setVid_draw (s : State) (vid : Video) : (s.setVid vid).draw = s.draw := rfl
@[simp] theorem State.setVid_pc0 (s : State) (vid : Video) : (s.setVid vid).pc0 = s.pc0 := rfl
@[simp] theorem State.setVid_effAddr (s : State) (vid : Video) (k : Nat) : (s.setVid vid).effAddr k = s.effAddr k := rfl
@[simp] theorem State.setVid_inRange (s : State) (vid : Video) (n : Nat) : (s.setVid vid).inRange n = s.inRange n := rfl
@[simp] theorem State.setVid_rangeInfo (s : State) (vid : Video) : (s.setVid vid).rangeInfo = s.rangeInfo := rfl
@[simp] theorem State.setVid_lowestKey (s : State) (vid : Video) : (s.setVid vid).lowestKey = s.lowestKey := rfl

/-! ### `State.countDraw` -/

@[simp] theorem State.countDraw_v (s : State) : (s.countDraw).v = s.v := rfl
@[simp] theorem State.countDraw_pc (s : State) : (s.countDraw).pc = s.pc := rfl
@[simp] theorem State.countDraw_i (s : State) : (s.countDraw).i = s.i := rfl
@[simp] theorem State.countDraw_stack (s : State) : (s.countDraw).stack = s.stack := rfl
@[simp] theorem State.countDraw_sp (s : State) : (s.countDraw).sp = s.sp := rfl
@[simp] theorem State.countDraw_dt (s : State) : (s.countDraw).dt = s.dt := rfl
@[simp] theorem State.countDraw_st (s : State) : (s.countDraw).st = s.st := rfl
@[simp] theorem State.countDraw_mem (s : State) : (s.countDraw).mem = s.mem := rfl
@[simp] theorem State.countDraw_vid (s : State) : (s.countDraw).vid = s.vid := rfl
@[simp] theorem State.countDraw_opcode (s : State) : (s.countDraw).opcode = s.opcode := rfl
@[simp] theorem State.countDraw_fault (s : State) : (s.countDraw).fault = s.fault := rfl
@[simp] theorem State.countDraw_loadErr (s : State) : (s.countDraw).loadErr = s.loadErr := rfl
@[simp] theorem State.countDraw_keys (s : State) : (s.countDraw).keys = s.keys := rfl
@[simp] theorem State.countDraw_draws (s : State) : (s.countDraw).draws = s.draws + 1 := rfl
@[simp] theorem State.countDraw_getV (s : State) (y : Reg) : (s.countDraw).getV y = s.getV y := rfl
@[simp] theorem State.countDraw_peek (s : State) (a : Nat) : (s.countDraw).peek a = s.peek a := rfl
@[simp] theorem State.countDraw_pixel (s : State) (r : Fin 32) (c : Fin 64) : (s.countDraw).pixel r c = s.pixel r c := rfl
@[simp] theorem State.countDraw_key (s : State) (k : Nat) : (s.countDraw).key k = s.key k := rfl
@[simp] theorem State.countDraw_pc0 (s : State) : (s.countDraw).pc0 = s.pc0 := rfl
@[simp] theorem State.countDraw_effAddr (s : State) (k : Nat) : (s.countDraw).effAddr k = s.effAddr k := rfl
@[simp] theorem State.countDraw_inRange (s : State) (n : Nat) : (s.countDraw).inRange n = s.inRange n := rfl
@[simp] theorem State.countDraw_rangeInfo (s : State) : (s.countDraw).rangeInfo = s.rangeInfo := rfl
@[simp] theorem State.countDraw_lowestKey (s : State) : (s.countDraw).lowestKey = s.lowestKey := rfl

/-! ### `State.pop` -/

@[simp] theorem State.pop_v (s : State) : (s.pop).v = s.v := rfl
@[simp] theorem State.pop_pc (s : State) : (s.pop).pc = s.pc := rfl
@[simp] theorem State.pop_i (s : State) : (s.pop).i = s.i := rfl
@[simp] theorem State.pop_stack (s : State) : (s.pop).stack = s.stack := rfl
@[simp] theorem State.pop_sp (s : State) : (s.pop).sp = s.sp - 1 := rfl
@[simp] theorem State.pop_dt (s : State) : (s.pop).dt = s.dt := rfl
@[simp] theorem State.pop_st (s : State) : (s.pop).st = s.st := rfl
@[simp] theorem State.pop_mem (s : State) : (s.pop).mem = s.mem := rfl
@[simp] theorem State.pop_vid (s : State) : (s.pop).vid = s.vid := rfl
@[simp] theorem State.pop_opcode (s : State) : (s.pop).opcode = s.opcode := rfl
@[simp] theorem State.pop_fault (s : State) : (s.pop).fault = s.fault := rfl
@[simp] theorem State.pop_loadErr (s : State) : (s.pop).loadErr = s.loadErr := rfl
@[simp] theorem State.pop_keys (s : State) : (s.pop).keys = s.keys := rfl
@[simp] theorem State.pop_draws (s : State) : (s.pop).draws = s.draws := rfl
@[simp] theorem State.pop_getV (s : State) (y : Reg) : (s.pop).getV y = s.getV y := rfl
@[simp] theorem State.pop_peek (s : State) (a : Nat) : (s.pop).peek a = s.peek a := rfl
@[simp] theorem State.pop_pixel (s : State) (r : Fin 32) (c : Fin 64) : (s.pop).pixel r c = s.pixel r c := rfl
@[simp] theorem State.pop_key (s : State) (k : Nat) : (s.pop).key k = s.key k := rfl
@[simp] theorem State.pop_draw (s : State) : (s.pop).draw = s.draw := rfl
@[simp] theorem State.pop_pc0 (s : State) : (s.pop).pc0 = s.pc0 := rfl
@[simp] theorem State.pop_effAddr (s : State) (k : Nat) : (s.pop).effAddr k = s.effAddr k := rfl
@[simp] theorem State.pop_inRange (s : State) (n : Nat) : (s.pop).inRange n = s.inRange n := rfl
@[simp] theorem State.pop_rangeInfo (s : State) : (s.pop).rangeInfo = s.rangeInfo := rfl
@[simp] theorem State.pop_lowestKey (s : State) : (s.pop).lowestKey = s.lowestKey := rfl

/-! ### `State.push` -/

@[simp] theorem State.push_v (s : State) (w : Word) (h : s.sp.toNat < 16) : (s.push w h).v = s.v := rfl
@[simp] theorem State.push_pc (s : State) (w : Word) (h : s.sp.toNat < 16) : (s.push w h).pc = s.pc := rfl
@[simp] theorem State.push_i (s : State) (w : Word) (h : s.sp.toNat < 16) : (s.push w h).i = s.i := rfl
@[simp] theorem State.push_stack (s : State) (w : Word) (h : s.sp.toNat < 16) : (s.push w h).stack = s.stack.set s.sp.toNat w := rfl
@[simp] theorem State.push_sp (s : State) (w : Word) (h : s.sp.toNat < 16) : (s.push w h).sp = s.sp + 1 := rfl
@[simp] theorem State.push_dt (s : State) (w : Word) (h : s.sp.toNat < 16) : (s.push w h).dt = s.dt := rfl
@[simp] theorem State.push_st (s : State) (w : Word) (h : s.sp.toNat < 16) : (s.push w h).st = s.st := rfl
@[simp] theorem State.push_mem (s : State) (w : Word) (h : s.sp.toNat < 16) : (s.push w h).mem = s.mem := rfl
@[simp] theorem State.push_vid (s : State) (w : Word) (h : s.sp.toNat < 16) : (s.push w h).vid = s.vid := rfl
@[simp] theorem State.push_opcode (s : State) (w : Word) (h : s.sp.toNat < 16) : (s.push w h).opcode = s.opcode := rfl
@[simp] theorem State.push_fault (s : State) (w : Word) (h : s.sp.toNat < 16) : (s.push w h).fault = s.fault := rfl
@[simp] theorem State.push_loadErr (s : State) (w : Word) (h : s.sp.toNat < 16) : (s.push w h).loadErr = s.loadErr := rfl
@[simp] theorem State.push_keys (s : State) (w : Word) (h : s.sp.toNat < 16) : (s.push w h).keys = s.keys := rfl
@[simp] theorem State.push_draws (s : State) (w : Word) (h : s.sp.toNat < 16) : (s.push w h).draws = s.draws := rfl
@[simp] theorem State.push_getV (s : State) (w : Word) (h : s.sp.toNat < 16) (y : Reg) : (s.push w h).getV y = s.getV y := rfl
@[simp] theorem State.push_peek (s : State) (w : Word) (h : s.sp.toNat < 16) (a : Nat) : (s.push w h).peek a = s.peek a := rfl
@[simp] theorem State.push_pixel (s : State) (w : Word) (h : s.sp.toNat < 16) (r : Fin 32) (c : Fin 64) : (s.push w h).pixel r c = s.pixel r c := rfl
@[simp] theorem State.push_key (s : State) (w : Word) (h : s.sp.toNat < 16) (k : Nat) : (s.push w h).key k = s.key k := rfl
@[simp] theorem State.push_draw (s : State) (w : Word) (h : s.sp.toNat < 16) : (s.push w h).draw = s.draw := rfl
@[simp] theorem State.push_pc0 (s : State) (w : Word) (h : s.sp.toNat < 16) : (s.push w h).pc0 = s.pc0 := rfl
@[simp] theorem State.push_effAddr (s : State) (w : Word) (h : s.sp.toNat < 16) (k : Nat) : (s.push w h).effAddr k = s.effAddr k := rfl
@[simp] theorem State.push_inRange (s : State) (w : Word) (h : s.sp.toNat < 16) (n : Nat) : (s.push w h).inRange n = s.inRange n := rfl
@[simp] theorem State.push_rangeInfo (s : State) (w : Word) (h : s.sp.toNat < 16) : (s.push w h).rangeInfo = s.rangeInfo := rfl
@[simp] theorem State.push_lowestKey (s : State) (w : Word) (h : s.sp.toNat < 16) : (s.push w h).lowestKey = s.lowestKey := rfl

/-! ### `State.recordFault` -/

@[simp] theorem State.recordFault_v (s : State) (w : Word) (cause : FaultCause) (info : BitVec 17) : (s.recordFault w cause info).v = s.v := rfl
@[simp] theorem State.recordFault_pc (s : State) (w : Word) (cause : FaultCause) (info : BitVec 17) : (s.recordFault w cause info).pc = w := rfl
@[simp] theorem State.recordFault_i (s : State) (w : Word) (cause : FaultCause) (info : BitVec 17) : (s.recordFault w cause info).i = s.i := rfl
@[simp] theorem State.recordFault_stack (s : State) (w : Word) (cause : FaultCause) (info : BitVec 17) : (s.recordFault w cause info).stack = s.stack := rfl
@[simp] theorem State.recordFault_sp (s : State) (w : Word) (cause : FaultCause) (info : BitVec 17) : (s.recordFault w cause info).sp = s.sp := rfl
@[simp] theorem State.recordFault_dt (s : State) (w : Word) (cause : FaultCause) (info : BitVec 17) : (s.recordFault w cause info).dt = s.dt := rfl
@[simp] theorem State.recordFault_st (s : State) (w : Word) (cause : FaultCause) (info : BitVec 17) : (s.recordFault w cause info).st = s.st := rfl
@[simp] theorem State.recordFault_mem (s : State) (w : Word) (cause : FaultCause) (info : BitVec 17) : (s.recordFault w cause info).mem = s.mem := rfl
@[simp] theorem State.recordFault_vid (s : State) (w : Word) (cause : FaultCause) (info : BitVec 17) : (s.recordFault w cause info).vid = s.vid := rfl
@[simp] theorem State.recordFault_opcode (s : State) (w : Word) (cause : FaultCause) (info : BitVec 17) : (s.recordFault w cause info).opcode = s.opcode := rfl
@[simp] theorem State.recordFault_fault (s : State) (w : Word) (cause : FaultCause) (info : BitVec 17) : (s.recordFault w cause info).fault = { valid := true, cause := cause.code, pc := w, info := info } := rfl
@[simp] theorem State.recordFault_loadErr (s : State) (w : Word) (cause : FaultCause) (info : BitVec 17) : (s.recordFault w cause info).loadErr = s.loadErr := rfl
@[simp] theorem State.recordFault_keys (s : State) (w : Word) (cause : FaultCause) (info : BitVec 17) : (s.recordFault w cause info).keys = s.keys := rfl
@[simp] theorem State.recordFault_draws (s : State) (w : Word) (cause : FaultCause) (info : BitVec 17) : (s.recordFault w cause info).draws = s.draws := rfl
@[simp] theorem State.recordFault_getV (s : State) (w : Word) (cause : FaultCause) (info : BitVec 17) (y : Reg) : (s.recordFault w cause info).getV y = s.getV y := rfl
@[simp] theorem State.recordFault_peek (s : State) (w : Word) (cause : FaultCause) (info : BitVec 17) (a : Nat) : (s.recordFault w cause info).peek a = s.peek a := rfl
@[simp] theorem State.recordFault_pixel (s : State) (w : Word) (cause : FaultCause) (info : BitVec 17) (r : Fin 32) (c : Fin 64) : (s.recordFault w cause info).pixel r c = s.pixel r c := rfl
@[simp] theorem State.recordFault_key (s : State) (w : Word) (cause : FaultCause) (info : BitVec 17) (k : Nat) : (s.recordFault w cause info).key k = s.key k := rfl
@[simp] theorem State.recordFault_draw (s : State) (w : Word) (cause : FaultCause) (info : BitVec 17) : (s.recordFault w cause info).draw = s.draw := rfl
@[simp] theorem State.recordFault_effAddr (s : State) (w : Word) (cause : FaultCause) (info : BitVec 17) (k : Nat) : (s.recordFault w cause info).effAddr k = s.effAddr k := rfl
@[simp] theorem State.recordFault_inRange (s : State) (w : Word) (cause : FaultCause) (info : BitVec 17) (n : Nat) : (s.recordFault w cause info).inRange n = s.inRange n := rfl
@[simp] theorem State.recordFault_rangeInfo (s : State) (w : Word) (cause : FaultCause) (info : BitVec 17) : (s.recordFault w cause info).rangeInfo = s.rangeInfo := rfl
@[simp] theorem State.recordFault_lowestKey (s : State) (w : Word) (cause : FaultCause) (info : BitVec 17) : (s.recordFault w cause info).lowestKey = s.lowestKey := rfl

/-! ### `State.latch` -/

@[simp] theorem State.latch_v (s : State) (w : Word) : (s.latch w).v = s.v := rfl
@[simp] theorem State.latch_pc (s : State) (w : Word) : (s.latch w).pc = s.pc + 2 := rfl
@[simp] theorem State.latch_i (s : State) (w : Word) : (s.latch w).i = s.i := rfl
@[simp] theorem State.latch_stack (s : State) (w : Word) : (s.latch w).stack = s.stack := rfl
@[simp] theorem State.latch_sp (s : State) (w : Word) : (s.latch w).sp = s.sp := rfl
@[simp] theorem State.latch_dt (s : State) (w : Word) : (s.latch w).dt = s.dt := rfl
@[simp] theorem State.latch_st (s : State) (w : Word) : (s.latch w).st = s.st := rfl
@[simp] theorem State.latch_mem (s : State) (w : Word) : (s.latch w).mem = s.mem := rfl
@[simp] theorem State.latch_vid (s : State) (w : Word) : (s.latch w).vid = s.vid := rfl
@[simp] theorem State.latch_opcode (s : State) (w : Word) : (s.latch w).opcode = w := rfl
@[simp] theorem State.latch_fault (s : State) (w : Word) : (s.latch w).fault = s.fault := rfl
@[simp] theorem State.latch_loadErr (s : State) (w : Word) : (s.latch w).loadErr = s.loadErr := rfl
@[simp] theorem State.latch_keys (s : State) (w : Word) : (s.latch w).keys = s.keys := rfl
@[simp] theorem State.latch_draws (s : State) (w : Word) : (s.latch w).draws = s.draws := rfl
@[simp] theorem State.latch_getV (s : State) (w : Word) (y : Reg) : (s.latch w).getV y = s.getV y := rfl
@[simp] theorem State.latch_peek (s : State) (w : Word) (a : Nat) : (s.latch w).peek a = s.peek a := rfl
@[simp] theorem State.latch_pixel (s : State) (w : Word) (r : Fin 32) (c : Fin 64) : (s.latch w).pixel r c = s.pixel r c := rfl
@[simp] theorem State.latch_key (s : State) (w : Word) (k : Nat) : (s.latch w).key k = s.key k := rfl
@[simp] theorem State.latch_draw (s : State) (w : Word) : (s.latch w).draw = s.draw := rfl
@[simp] theorem State.latch_effAddr (s : State) (w : Word) (k : Nat) : (s.latch w).effAddr k = s.effAddr k := rfl
@[simp] theorem State.latch_inRange (s : State) (w : Word) (n : Nat) : (s.latch w).inRange n = s.inRange n := rfl
@[simp] theorem State.latch_rangeInfo (s : State) (w : Word) : (s.latch w).rangeInfo = s.rangeInfo := rfl
@[simp] theorem State.latch_lowestKey (s : State) (w : Word) : (s.latch w).lowestKey = s.lowestKey := rfl

/-! ### `State.timerPhase` -/

@[simp] theorem State.timerPhase_v (s : State) : (s.timerPhase).v = s.v := rfl
@[simp] theorem State.timerPhase_pc (s : State) : (s.timerPhase).pc = s.pc := rfl
@[simp] theorem State.timerPhase_i (s : State) : (s.timerPhase).i = s.i := rfl
@[simp] theorem State.timerPhase_stack (s : State) : (s.timerPhase).stack = s.stack := rfl
@[simp] theorem State.timerPhase_sp (s : State) : (s.timerPhase).sp = s.sp := rfl
@[simp] theorem State.timerPhase_dt (s : State) : (s.timerPhase).dt = tick s.dt := rfl
@[simp] theorem State.timerPhase_st (s : State) : (s.timerPhase).st = tick s.st := rfl
@[simp] theorem State.timerPhase_mem (s : State) : (s.timerPhase).mem = s.mem := rfl
@[simp] theorem State.timerPhase_vid (s : State) : (s.timerPhase).vid = s.vid := rfl
@[simp] theorem State.timerPhase_opcode (s : State) : (s.timerPhase).opcode = s.opcode := rfl
@[simp] theorem State.timerPhase_fault (s : State) : (s.timerPhase).fault = s.fault := rfl
@[simp] theorem State.timerPhase_loadErr (s : State) : (s.timerPhase).loadErr = s.loadErr := rfl
@[simp] theorem State.timerPhase_keys (s : State) : (s.timerPhase).keys = s.keys := rfl
@[simp] theorem State.timerPhase_draws (s : State) : (s.timerPhase).draws = s.draws := rfl
@[simp] theorem State.timerPhase_getV (s : State) (y : Reg) : (s.timerPhase).getV y = s.getV y := rfl
@[simp] theorem State.timerPhase_peek (s : State) (a : Nat) : (s.timerPhase).peek a = s.peek a := rfl
@[simp] theorem State.timerPhase_pixel (s : State) (r : Fin 32) (c : Fin 64) : (s.timerPhase).pixel r c = s.pixel r c := rfl
@[simp] theorem State.timerPhase_key (s : State) (k : Nat) : (s.timerPhase).key k = s.key k := rfl
@[simp] theorem State.timerPhase_draw (s : State) : (s.timerPhase).draw = s.draw := rfl
@[simp] theorem State.timerPhase_pc0 (s : State) : (s.timerPhase).pc0 = s.pc0 := rfl
@[simp] theorem State.timerPhase_effAddr (s : State) (k : Nat) : (s.timerPhase).effAddr k = s.effAddr k := rfl
@[simp] theorem State.timerPhase_inRange (s : State) (n : Nat) : (s.timerPhase).inRange n = s.inRange n := rfl
@[simp] theorem State.timerPhase_rangeInfo (s : State) : (s.timerPhase).rangeInfo = s.rangeInfo := rfl
@[simp] theorem State.timerPhase_lowestKey (s : State) : (s.timerPhase).lowestKey = s.lowestKey := rfl

/-! ### `State.presentKeys` -/

@[simp] theorem State.presentKeys_v (s : State) (w : BitVec 16) : (s.presentKeys w).v = s.v := rfl
@[simp] theorem State.presentKeys_pc (s : State) (w : BitVec 16) : (s.presentKeys w).pc = s.pc := rfl
@[simp] theorem State.presentKeys_i (s : State) (w : BitVec 16) : (s.presentKeys w).i = s.i := rfl
@[simp] theorem State.presentKeys_stack (s : State) (w : BitVec 16) : (s.presentKeys w).stack = s.stack := rfl
@[simp] theorem State.presentKeys_sp (s : State) (w : BitVec 16) : (s.presentKeys w).sp = s.sp := rfl
@[simp] theorem State.presentKeys_dt (s : State) (w : BitVec 16) : (s.presentKeys w).dt = s.dt := rfl
@[simp] theorem State.presentKeys_st (s : State) (w : BitVec 16) : (s.presentKeys w).st = s.st := rfl
@[simp] theorem State.presentKeys_mem (s : State) (w : BitVec 16) : (s.presentKeys w).mem = s.mem := rfl
@[simp] theorem State.presentKeys_vid (s : State) (w : BitVec 16) : (s.presentKeys w).vid = s.vid := rfl
@[simp] theorem State.presentKeys_opcode (s : State) (w : BitVec 16) : (s.presentKeys w).opcode = s.opcode := rfl
@[simp] theorem State.presentKeys_fault (s : State) (w : BitVec 16) : (s.presentKeys w).fault = s.fault := rfl
@[simp] theorem State.presentKeys_loadErr (s : State) (w : BitVec 16) : (s.presentKeys w).loadErr = s.loadErr := rfl
@[simp] theorem State.presentKeys_keys (s : State) (w : BitVec 16) : (s.presentKeys w).keys = w := rfl
@[simp] theorem State.presentKeys_draws (s : State) (w : BitVec 16) : (s.presentKeys w).draws = s.draws := rfl
@[simp] theorem State.presentKeys_getV (s : State) (w : BitVec 16) (y : Reg) : (s.presentKeys w).getV y = s.getV y := rfl
@[simp] theorem State.presentKeys_peek (s : State) (w : BitVec 16) (a : Nat) : (s.presentKeys w).peek a = s.peek a := rfl
@[simp] theorem State.presentKeys_pixel (s : State) (w : BitVec 16) (r : Fin 32) (c : Fin 64) : (s.presentKeys w).pixel r c = s.pixel r c := rfl
@[simp] theorem State.presentKeys_draw (s : State) (w : BitVec 16) : (s.presentKeys w).draw = s.draw := rfl
@[simp] theorem State.presentKeys_pc0 (s : State) (w : BitVec 16) : (s.presentKeys w).pc0 = s.pc0 := rfl
@[simp] theorem State.presentKeys_effAddr (s : State) (w : BitVec 16) (k : Nat) : (s.presentKeys w).effAddr k = s.effAddr k := rfl
@[simp] theorem State.presentKeys_inRange (s : State) (w : BitVec 16) (n : Nat) : (s.presentKeys w).inRange n = s.inRange n := rfl
@[simp] theorem State.presentKeys_rangeInfo (s : State) (w : BitVec 16) : (s.presentKeys w).rangeInfo = s.rangeInfo := rfl

/-! ### `State.resetWith` and `State.resetOperation` -/

@[simp] theorem State.resetWith_v (font : Config.FontData) : (State.resetWith font).v = State.reset.v := rfl
@[simp] theorem State.resetWith_pc (font : Config.FontData) : (State.resetWith font).pc = State.reset.pc := rfl
@[simp] theorem State.resetWith_i (font : Config.FontData) : (State.resetWith font).i = State.reset.i := rfl
@[simp] theorem State.resetWith_stack (font : Config.FontData) : (State.resetWith font).stack = State.reset.stack := rfl
@[simp] theorem State.resetWith_sp (font : Config.FontData) : (State.resetWith font).sp = State.reset.sp := rfl
@[simp] theorem State.resetWith_dt (font : Config.FontData) : (State.resetWith font).dt = State.reset.dt := rfl
@[simp] theorem State.resetWith_st (font : Config.FontData) : (State.resetWith font).st = State.reset.st := rfl
@[simp] theorem State.resetWith_vid (font : Config.FontData) : (State.resetWith font).vid = State.reset.vid := rfl
@[simp] theorem State.resetWith_opcode (font : Config.FontData) : (State.resetWith font).opcode = State.reset.opcode := rfl
@[simp] theorem State.resetWith_fault (font : Config.FontData) : (State.resetWith font).fault = State.reset.fault := rfl
@[simp] theorem State.resetWith_loadErr (font : Config.FontData) : (State.resetWith font).loadErr = State.reset.loadErr := rfl
@[simp] theorem State.resetWith_keys (font : Config.FontData) : (State.resetWith font).keys = State.reset.keys := rfl
@[simp] theorem State.resetWith_draws (font : Config.FontData) : (State.resetWith font).draws = State.reset.draws := rfl
@[simp] theorem State.resetWith_mem (font : Config.FontData) :
    (State.resetWith font).mem = State.reset.mem.writeBytes Config.fontBase font.toList := rfl
@[simp] theorem State.resetOperation_v (s : State) (font : Config.FontData) : (s.resetOperation font).v = (State.resetWith font).v := rfl
@[simp] theorem State.resetOperation_pc (s : State) (font : Config.FontData) : (s.resetOperation font).pc = (State.resetWith font).pc := rfl
@[simp] theorem State.resetOperation_i (s : State) (font : Config.FontData) : (s.resetOperation font).i = (State.resetWith font).i := rfl
@[simp] theorem State.resetOperation_stack (s : State) (font : Config.FontData) : (s.resetOperation font).stack = (State.resetWith font).stack := rfl
@[simp] theorem State.resetOperation_sp (s : State) (font : Config.FontData) : (s.resetOperation font).sp = (State.resetWith font).sp := rfl
@[simp] theorem State.resetOperation_dt (s : State) (font : Config.FontData) : (s.resetOperation font).dt = (State.resetWith font).dt := rfl
@[simp] theorem State.resetOperation_st (s : State) (font : Config.FontData) : (s.resetOperation font).st = (State.resetWith font).st := rfl
@[simp] theorem State.resetOperation_vid (s : State) (font : Config.FontData) : (s.resetOperation font).vid = (State.resetWith font).vid := rfl
@[simp] theorem State.resetOperation_opcode (s : State) (font : Config.FontData) : (s.resetOperation font).opcode = (State.resetWith font).opcode := rfl
@[simp] theorem State.resetOperation_fault (s : State) (font : Config.FontData) : (s.resetOperation font).fault = (State.resetWith font).fault := rfl
@[simp] theorem State.resetOperation_loadErr (s : State) (font : Config.FontData) : (s.resetOperation font).loadErr = (State.resetWith font).loadErr := rfl
@[simp] theorem State.resetOperation_keys (s : State) (font : Config.FontData) : (s.resetOperation font).keys = s.keys := rfl
@[simp] theorem State.resetOperation_draws (s : State) (font : Config.FontData) : (s.resetOperation font).draws = s.draws := rfl
@[simp] theorem State.resetOperation_mem (s : State) (font : Config.FontData) : (s.resetOperation font).mem = (State.resetWith font).mem := rfl

/-! ### `State.skipIf` -/

@[simp] theorem State.skipIf_v (s : State) (b : Bool) : (s.skipIf b).v = s.v := by
  cases b <;> rfl
@[simp] theorem State.skipIf_pc (s : State) (b : Bool) : (s.skipIf b).pc = if b then s.pc + 2 else s.pc := by
  cases b <;> rfl
@[simp] theorem State.skipIf_i (s : State) (b : Bool) : (s.skipIf b).i = s.i := by
  cases b <;> rfl
@[simp] theorem State.skipIf_stack (s : State) (b : Bool) : (s.skipIf b).stack = s.stack := by
  cases b <;> rfl
@[simp] theorem State.skipIf_sp (s : State) (b : Bool) : (s.skipIf b).sp = s.sp := by
  cases b <;> rfl
@[simp] theorem State.skipIf_dt (s : State) (b : Bool) : (s.skipIf b).dt = s.dt := by
  cases b <;> rfl
@[simp] theorem State.skipIf_st (s : State) (b : Bool) : (s.skipIf b).st = s.st := by
  cases b <;> rfl
@[simp] theorem State.skipIf_mem (s : State) (b : Bool) : (s.skipIf b).mem = s.mem := by
  cases b <;> rfl
@[simp] theorem State.skipIf_vid (s : State) (b : Bool) : (s.skipIf b).vid = s.vid := by
  cases b <;> rfl
@[simp] theorem State.skipIf_opcode (s : State) (b : Bool) : (s.skipIf b).opcode = s.opcode := by
  cases b <;> rfl
@[simp] theorem State.skipIf_fault (s : State) (b : Bool) : (s.skipIf b).fault = s.fault := by
  cases b <;> rfl
@[simp] theorem State.skipIf_loadErr (s : State) (b : Bool) : (s.skipIf b).loadErr = s.loadErr := by
  cases b <;> rfl
@[simp] theorem State.skipIf_keys (s : State) (b : Bool) : (s.skipIf b).keys = s.keys := by
  cases b <;> rfl
@[simp] theorem State.skipIf_draws (s : State) (b : Bool) : (s.skipIf b).draws = s.draws := by
  cases b <;> rfl
@[simp] theorem State.skipIf_getV (s : State) (b : Bool) (y : Reg) : (s.skipIf b).getV y = s.getV y := by
  cases b <;> rfl
@[simp] theorem State.skipIf_peek (s : State) (b : Bool) (a : Nat) : (s.skipIf b).peek a = s.peek a := by
  cases b <;> rfl
@[simp] theorem State.skipIf_pixel (s : State) (b : Bool) (r : Fin 32) (c : Fin 64) : (s.skipIf b).pixel r c = s.pixel r c := by
  cases b <;> rfl
@[simp] theorem State.skipIf_key (s : State) (b : Bool) (k : Nat) : (s.skipIf b).key k = s.key k := by
  cases b <;> rfl
@[simp] theorem State.skipIf_draw (s : State) (b : Bool) : (s.skipIf b).draw = s.draw := by
  cases b <;> rfl
@[simp] theorem State.skipIf_effAddr (s : State) (b : Bool) (k : Nat) : (s.skipIf b).effAddr k = s.effAddr k := by
  cases b <;> rfl
@[simp] theorem State.skipIf_inRange (s : State) (b : Bool) (n : Nat) : (s.skipIf b).inRange n = s.inRange n := by
  cases b <;> rfl
@[simp] theorem State.skipIf_rangeInfo (s : State) (b : Bool) : (s.skipIf b).rangeInfo = s.rangeInfo := by
  cases b <;> rfl
@[simp] theorem State.skipIf_lowestKey (s : State) (b : Bool) : (s.skipIf b).lowestKey = s.lowestKey := by
  cases b <;> rfl

end Sys2Proof.Machine
end

