-- ==== Sys2Proof/Laws/Ops.lean ====
section
/-! SUPPORT. One lemma for each shared operation that says everything it can do; proofs cite these instead of unfolding. -/

namespace Sys2Proof.Machine

/-! ### Registers and stack -/

/-- Reading a register after writing one. -/
theorem State.getV_setV (s : State) (x y : Reg) (b : Byte) : (s.setV x b).getV y = if y = x then b else s.getV y := by
  unfold State.getV State.setV
  simp only [Fin.getElem_fin, Vector.getElem_set, Fin.val_inj, eq_comm]

@[simp] theorem State.getV_setV_self (s : State) (x : Reg) (b : Byte) : (s.setV x b).getV x = b := by
  rw [State.getV_setV, if_pos rfl]

theorem State.getV_setV_ne (s : State) {x y : Reg} (b : Byte) (h : y ≠ x) : (s.setV x b).getV y = s.getV y := by
  rw [State.getV_setV, if_neg h]

/-- Reading a stack entry after a push. -/
theorem State.stack_push (s : State) (w : Word) (h : s.sp.toNat < 16) (k : Fin 16) :
    (s.push w h).stack[k] = if k.val = s.sp.toNat then w else s.stack[k] := by
  unfold State.push
  simp only [Fin.getElem_fin, Vector.getElem_set, eq_comm]

/-- Result and flag: the flag is what `VF` holds, and the result is what `V[x]` holds unless `x` is `VF` (R160). -/
theorem State.getV_setResultAndFlag (s : State) (x y : Reg) (r f : Byte) :
    (s.setResultAndFlag x r f).getV y = if y = VF then f else if y = x then r else s.getV y := by
  unfold State.setResultAndFlag
  rw [State.getV_setV, State.getV_setV]

/-- Loading bytes into consecutive registers. -/
theorem State.getV_setRegsFrom (s : State) (k : Nat) (bs : List Byte) (y : Reg) :
    (s.setRegsFrom k bs).getV y = if k ≤ y.val ∧ y.val < k + bs.length then bs.getD (y.val - k) 0 else s.getV y := by
  induction bs generalizing s k with
  | nil =>
    rw [State.setRegsFrom, if_neg]
    simp
  | cons b bs ih =>
    rw [State.setRegsFrom, ih]
    simp only [List.length_cons]
    have hset : (if h : k < 16 then s.setV ⟨k, h⟩ b else s).getV y = if y.val = k then b else s.getV y := by
      split
      · rw [State.getV_setV]
        simp only [Fin.ext_iff]
      · rw [if_neg]
        omega
    rw [hset]
    rcases Nat.lt_trichotomy y.val k with h | h | h
    · rw [if_neg (by omega), if_neg (by omega), if_neg (by omega)]
    · rw [if_neg (by omega), if_pos h, if_pos (by omega), h, Nat.sub_self]
      rfl
    · by_cases h2 : y.val < k + 1 + bs.length
      · rw [if_pos (by omega), if_pos (by omega), show y.val - k = y.val - (k + 1) + 1 by omega]
        rfl
      · rw [if_neg (by omega), if_neg (by omega), if_neg (by omega)]

/-- Loading registers changes nothing but registers. -/
theorem State.setRegsFrom_frame (s : State) (k : Nat) (bs : List Byte) :
    (s.setRegsFrom k bs) = { s with v := (s.setRegsFrom k bs).v } := by
  induction bs generalizing s k with
  | nil => rfl
  | cons b bs ih =>
    rw [State.setRegsFrom, ih]
    split <;> rfl

@[simp] theorem State.length_firstRegs (s : State) (x : Reg) : (s.firstRegs x).length = x.val + 1 := by
  unfold State.firstRegs
  simp only [List.length_take, Vector.length_toList]
  omega

@[simp] theorem State.getElem_firstRegs (s : State) (x : Reg) (k : Nat) (h : k < (s.firstRegs x).length) :
    (s.firstRegs x)[k] = s.getV ⟨k, by rw [State.length_firstRegs] at h; omega⟩ := by
  simp [State.firstRegs, State.getV]

/-! ### Video -/

theorem Video.pixel_setPixel (vid : Video) (r r' : Fin 32) (c c' : Fin 64) (on : Bool) :
    (vid.setPixel r c on).pixel r' c' = if r' = r ∧ c' = c then on else vid.pixel r' c' := by
  unfold Video.setPixel Video.pixel
  simp only [Fin.getElem_fin, Vector.getElem_set]
  by_cases hr : r' = r
  · subst hr
    by_cases hc : c' = c
    · simp [hc]
    · have : c.val ≠ c'.val := fun h => hc (Fin.ext h.symm)
      simp [hc, this]
  · have : r.val ≠ r'.val := fun h => hr (Fin.ext h.symm)
    simp [hr, this]

@[simp] theorem Video.pixel_dark (r : Fin 32) (c : Fin 64) : Video.dark.pixel r c = false := by
  simp [Video.dark, Video.pixel]

/-! ### Ranges -/

/-- The range check of an access of `n` bytes at `I` (R68). -/
theorem State.inRange_iff (s : State) (n : Nat) : s.inRange n = true ↔ n = 0 ∨ s.i.toNat + n - 1 ≤ 4095 := by
  unfold State.inRange State.effAddr
  simp only [Bool.or_eq_true, beq_iff_eq, decide_eq_true_eq, Config.memSize]
  omega

theorem State.inRange_succ_iff (s : State) (n : Nat) : s.inRange (n + 1) = true ↔ s.i.toNat + n ≤ 4095 := by
  rw [State.inRange_iff]
  omega

@[simp] theorem State.effAddr_eq (s : State) (k : Nat) : s.effAddr k = s.i.toNat + k := rfl

/-! ### Stored bytes -/

/-- A byte just stored is the byte read, in a canonical memory. -/
theorem State.peek_writeBytes (s : State) (hm : s.mem.wf = true) {a : Nat} {bs : List Byte}
    (ha : a + bs.length ≤ 4096) {k : Nat} (hk : k < bs.length) :
    (s.setMem (s.mem.writeBytes a bs)).peek (a + k) = bs[k] :=
  Memory.read_writeBytes_inside hm ha hk

/-! ### Reset -/

/-- Whatever the font, memory is canonical after reset. -/
theorem State.resetWith_wf (font : Config.FontData) : (State.resetWith font).mem.wf = true :=
  Memory.wf_writeBytes rfl (by rw [Vector.length_toList]; decide)

/-! ### Faults and the cycle -/

/-- Raising a fault answers a next state in which only `PC` and `FAULT` differ. -/
theorem raiseFault_taken (cause : FaultCause) (info : Nat) (s : State) :
    ∃ t, raiseFault cause (BitVec.ofNat 17 info) s = .next t ∧ FaultTaken cause info s t := by
  refine ⟨_, rfl, rfl, rfl, ?_⟩
  intro p hp
  cases p <;> first | rfl | exact absurd (Or.inl rfl) hp | exact absurd (Or.inr rfl) hp

/-- A code is one of 1 to 6 (R251). -/
theorem FaultCause.code_range (c : FaultCause) : 1 ≤ c.code.toNat ∧ c.code.toNat ≤ 6 := by
  cases c <;> decide

/-- The fetch (R123). -/
theorem State.fetchWord_eq (s : State) :
    s.fetchWord = if s.pc.toNat ≤ 4094 then some s.nextWord else none := by
  unfold State.fetchWord State.nextWord
  simp only [Config.memSize]
  split <;> split <;> first | rfl | omega

/-- A step where a fault stands. -/
theorem step_faulted {s : State} (h : s.fault.valid = true) : step s = .next s := by
  unfold step
  rw [if_pos h]

/-- A step from which nothing can be fetched. -/
theorem step_fetchFault {s : State} (h : s.fault.valid = false) (hp : 4095 ≤ s.pc.toNat) :
    step s = .next s.fetchFault := by
  unfold step
  rw [if_neg (by simp [h]), State.fetchWord_eq, if_neg (by omega)]

/-- A step that runs the fetched instruction. -/
theorem step_ready {s : State} (h : s.ready) : step s = endCycle s (exec (decode s.nextWord) (s.latch s.nextWord)) := by
  unfold step
  rw [if_neg (by simp [h.1]), State.fetchWord_eq, if_pos h.2]

/-- The end of a cycle that did not fault: the timer phase. -/
theorem endCycle_running (s0 : State) {t : State} (h : t.fault.valid = false) :
    endCycle s0 (.next t) = .next t.timerPhase := by
  unfold endCycle
  simp [h]

/-- The end of a cycle that faulted: the state before it, with the fault recorded. -/
theorem endCycle_faulted (s0 : State) {t : State} (h : t.fault.valid = true) :
    endCycle s0 (.next t) = .next { s0 with fault := t.fault } := by
  unfold endCycle
  simp [h]

/-- What the end of a cycle answers: next exactly where the execution did (R120, R128). -/
theorem endCycle_next_iff (s0 t : State) (r : Result) :
    endCycle s0 r = .next t ↔
      ∃ u, r = .next u ∧ t = if u.fault.valid then { s0 with fault := u.fault } else u.timerPhase := by
  cases r with
  | next u =>
    constructor
    · intro h
      exact ⟨u, rfl, (Host.Outcome.next.inj h).symm⟩
    · rintro ⟨u', hu, rfl⟩
      cases hu
      rfl
  | fault f => simp [endCycle]
  | refused f => simp [endCycle]

/-- The lowest key down, if any (R229). -/
theorem State.lowestKey_eq_none_iff (s : State) : s.lowestKey = none ↔ s.keys = 0 := by
  unfold State.lowestKey State.key
  rw [List.find?_eq_none]
  constructor
  · intro h
    apply BitVec.eq_of_getLsbD_eq
    intro i hi
    have := h i (List.mem_range.mpr hi)
    simpa using this
  · intro h
    simp [h]

theorem State.lowestKey_eq_some_iff (s : State) (k : Nat) :
    s.lowestKey = some k ↔ k < 16 ∧ s.key k = true ∧ ∀ j, j < k → s.key j = false := by
  unfold State.lowestKey
  rw [List.find?_range_eq_some]
  simp only [List.mem_range, Bool.not_eq_true']
  tauto

end Sys2Proof.Machine
end

