-- ==== Sys2Proof/Laws/Drawing.lean ====
section
/-! SUPPORT. What drawing a sprite does to each pixel and when it reports a collision: since no pixel is touched twice
(spec/44_graphics.md R212 (c)), the sequential drawing is a pixelwise exclusive or. -/

namespace Sys2Proof.Machine

theorem spriteCol_inj {vx : Byte} {a b : Nat} (ha : a < 8) (hb : b < 8) (h : spriteCol vx a = spriteCol vx b) :
    a = b := by
  have := Fin.val_eq_of_eq h
  simp only [spriteCol, Fin.val_ofNat] at this
  omega

theorem spriteRow_inj {vy : Byte} {a b : Nat} (ha : a < 32) (hb : b < 32) (h : spriteRow vy a = spriteRow vy b) :
    a = b := by
  have := Fin.val_eq_of_eq h
  simp only [spriteRow, Fin.val_ofNat] at this
  omega

theorem Drawing.toggle_pixel (d : Drawing) (r r' : Fin 32) (c c' : Fin 64) :
    (d.toggle r c).vid.pixel r' c' = (d.vid.pixel r' c' ^^ decide (r' = r ∧ c' = c)) := by
  simp only [Drawing.toggle, Video.pixel_setPixel]
  by_cases h : r' = r ∧ c' = c
  · obtain ⟨rfl, rfl⟩ := h
    simp
  · simp [h]

/-- One row of a sprite: pixels of other rows are left alone, and a pixel of this row is toggled exactly if a set bit lies
over it. -/
theorem Drawing.columns_pixel (vx : Byte) (r : Fin 32) (b : Byte) (d : Drawing) (cols : List Nat) (hn : cols.Nodup)
    (h8 : ∀ k ∈ cols, k < 8) (r' : Fin 32) (c' : Fin 64) :
    (Drawing.columns vx r b d cols).vid.pixel r' c' =
      (d.vid.pixel r' c' ^^
        decide (r' = r ∧ ∃ k ∈ cols, b.getLsbD (7 - k) = true ∧ c' = spriteCol vx k)) := by
  induction cols generalizing d with
  | nil => simp [Drawing.columns]
  | cons k cols ih =>
    rw [List.nodup_cons] at hn
    rw [Drawing.columns, ih _ hn.2 (fun j hj => h8 j (List.mem_cons_of_mem _ hj))]
    have hno : c' = spriteCol vx k → ¬ ∃ j ∈ cols, b.getLsbD (7 - j) = true ∧ c' = spriteCol vx j := by
      rintro rfl ⟨j, hj, -, he⟩
      have := spriteCol_inj (h8 k List.mem_cons_self) (h8 j (List.mem_cons_of_mem _ hj)) he
      exact hn.1 (this ▸ hj)
    by_cases hb : b.getLsbD (7 - k) = true
    · rw [if_pos hb, Drawing.toggle_pixel]
      by_cases hr : r' = r
      · by_cases hc : c' = spriteCol vx k
        · simp [hr, hc, hb, hc ▸ hno hc]
        · simp [hr, hc, hb]
      · simp [hr]
    · rw [if_neg hb]
      simp [hb]

/-- One row of a sprite reports a collision exactly if a set bit lies over a pixel that was on. -/
theorem Drawing.columns_hit (vx : Byte) (r : Fin 32) (b : Byte) (d : Drawing) (cols : List Nat) (hn : cols.Nodup)
    (h8 : ∀ k ∈ cols, k < 8) :
    (Drawing.columns vx r b d cols).hit = true ↔
      d.hit = true ∨ ∃ k ∈ cols, b.getLsbD (7 - k) = true ∧ d.vid.pixel r (spriteCol vx k) = true := by
  induction cols generalizing d with
  | nil => simp [Drawing.columns]
  | cons k cols ih =>
    rw [List.nodup_cons] at hn
    have h8' : ∀ j ∈ cols, j < 8 := fun j hj => h8 j (List.mem_cons_of_mem _ hj)
    rw [Drawing.columns, ih _ hn.2 h8']
    by_cases hb : b.getLsbD (7 - k) = true
    · rw [if_pos hb]
      have hsame : ∀ j ∈ cols, (d.toggle r (spriteCol vx k)).vid.pixel r (spriteCol vx j) =
          d.vid.pixel r (spriteCol vx j) := by
        intro j hj
        rw [Drawing.toggle_pixel]
        have : ¬ spriteCol vx j = spriteCol vx k := fun he =>
          hn.1 (spriteCol_inj (h8' j hj) (h8 k List.mem_cons_self) he ▸ hj)
        simp [this]
      have hhit : (d.toggle r (spriteCol vx k)).hit = (d.hit || d.vid.pixel r (spriteCol vx k)) := rfl
      rw [hhit]
      simp only [List.mem_cons, exists_eq_or_imp, hb, true_and, Bool.or_eq_true]
      rw [or_assoc]
      refine or_congr_right (or_congr_right ?_)
      exact exists_congr fun j => and_congr_right fun hj => and_congr_right fun _ => by rw [hsame j hj]
    · rw [if_neg hb]
      simp [hb]

/-- The rows of a sprite from row `row` on: a pixel is toggled exactly if a set bit lies over it. -/
theorem Drawing.rows_pixel (vx vy : Byte) (d : Drawing) (row : Nat) (bs : List Byte) (hrow : row + bs.length ≤ 32)
    (r : Fin 32) (c : Fin 64) :
    (Drawing.rows vx vy d row bs).vid.pixel r c =
      (d.vid.pixel r c ^^
        decide (∃ k ∈ List.range bs.length, r = spriteRow vy (row + k) ∧
          ∃ col ∈ List.range 8, (bs.getD k 0).getLsbD (7 - col) = true ∧ c = spriteCol vx col)) := by
  induction bs generalizing d row with
  | nil => simp [Drawing.rows]
  | cons b bs ih =>
    rw [List.length_cons] at hrow
    rw [Drawing.rows, ih _ _ (by omega),
      Drawing.columns_pixel _ _ _ _ _ List.nodup_range (fun k hk => List.mem_range.mp hk), Bool.xor_assoc]
    congr 1
    have hsplit : (∃ k ∈ List.range (b :: bs).length, r = spriteRow vy (row + k) ∧
          ∃ col ∈ List.range 8, ((b :: bs).getD k 0).getLsbD (7 - col) = true ∧ c = spriteCol vx col) ↔
        (r = spriteRow vy row ∧ ∃ col ∈ List.range 8, b.getLsbD (7 - col) = true ∧ c = spriteCol vx col) ∨
        (∃ k ∈ List.range bs.length, r = spriteRow vy (row + 1 + k) ∧
          ∃ col ∈ List.range 8, (bs.getD k 0).getLsbD (7 - col) = true ∧ c = spriteCol vx col) := by
      constructor
      · rintro ⟨k, hk, hr, hc⟩
        cases k with
        | zero => exact .inl ⟨hr, hc⟩
        | succ k =>
          refine .inr ⟨k, by simpa using hk, ?_, hc⟩
          rw [hr]
          congr 1
          omega
      · rintro (⟨hr, hc⟩ | ⟨k, hk, hr, hc⟩)
        · exact ⟨0, by simp, hr, hc⟩
        · refine ⟨k + 1, by simpa using hk, ?_, hc⟩
          rw [hr]
          congr 1
          omega
    have hexcl : ¬ ((r = spriteRow vy row ∧
          ∃ col ∈ List.range 8, b.getLsbD (7 - col) = true ∧ c = spriteCol vx col) ∧
        (∃ k ∈ List.range bs.length, r = spriteRow vy (row + 1 + k) ∧
          ∃ col ∈ List.range 8, (bs.getD k 0).getLsbD (7 - col) = true ∧ c = spriteCol vx col)) := by
      rintro ⟨⟨hr, -⟩, ⟨k, hk, hr', -⟩⟩
      rw [List.mem_range] at hk
      have := spriteRow_inj (by omega) (by omega) (hr.symm.trans hr')
      omega
    rw [decide_eq_decide.mpr hsplit]
    by_cases h1 : (r = spriteRow vy row ∧
          ∃ col ∈ List.range 8, b.getLsbD (7 - col) = true ∧ c = spriteCol vx col)
    · have h2 := fun h => hexcl ⟨h1, h⟩
      rw [decide_eq_false h2, decide_eq_true h1, decide_eq_true (Or.inl h1)]
      rfl
    · rw [decide_eq_false h1, Bool.false_xor]
      exact decide_eq_decide.mpr ⟨fun h => .inr h, fun h => h.resolve_left h1⟩

/-- The rows of a sprite report a collision exactly if a set bit lies over a pixel that was on before the drawing. -/
theorem Drawing.rows_hit (vx vy : Byte) (d : Drawing) (row : Nat) (bs : List Byte) (hrow : row + bs.length ≤ 32) :
    (Drawing.rows vx vy d row bs).hit = true ↔
      d.hit = true ∨ ∃ k < bs.length, ∃ col < 8, (bs.getD k 0).getLsbD (7 - col) = true ∧
        d.vid.pixel (spriteRow vy (row + k)) (spriteCol vx col) = true := by
  induction bs generalizing d row with
  | nil => simp [Drawing.rows]
  | cons b bs ih =>
    rw [List.length_cons] at hrow
    rw [Drawing.rows, ih _ _ (by omega),
      Drawing.columns_hit _ _ _ _ _ List.nodup_range (fun k hk => List.mem_range.mp hk)]
    have hsame : ∀ k, k < bs.length → ∀ c,
        (d.columns vx (spriteRow vy row) b (List.range 8)).vid.pixel (spriteRow vy (row + 1 + k)) c =
          d.vid.pixel (spriteRow vy (row + 1 + k)) c := by
      intro k hk c
      rw [Drawing.columns_pixel _ _ _ _ _ List.nodup_range (fun k hk => List.mem_range.mp hk)]
      have : ¬ spriteRow vy (row + 1 + k) = spriteRow vy row := fun h => by
        have := spriteRow_inj (by omega) (by omega) h
        omega
      simp [this]
    constructor
    · rintro ((h | ⟨k, hk, h1, h2⟩) | ⟨k, hk, col, hc, h1, h2⟩)
      · exact .inl h
      · exact .inr ⟨0, by simp, k, List.mem_range.mp hk, h1, h2⟩
      · refine .inr ⟨k + 1, by simpa using hk, col, hc, by simpa using h1, ?_⟩
        rw [hsame k hk] at h2
        rwa [show row + (k + 1) = row + 1 + k by omega]
    · rintro (h | ⟨k, hk, col, hc, h1, h2⟩)
      · exact .inl (.inl h)
      · cases k with
        | zero => exact .inl (.inr ⟨col, List.mem_range.mpr hc, h1, h2⟩)
        | succ k =>
          have hk' : k < bs.length := by simpa using hk
          refine .inr ⟨k, hk', col, hc, by simpa using h1, ?_⟩
          rw [hsame k hk']
          rwa [show row + 1 + k = row + (k + 1) by omega]

end Sys2Proof.Machine
end

