-- ==== Sys2Proof/Laws/Frames.lean ====
section
/-! SUPPORT. The frame of each update and shared operation as `ChangesOnly`. -/

namespace Sys2Proof.Machine

/-! ### Composing frames -/

theorem ChangesOnly.refl (W : Part → Prop) (s : State) : ChangesOnly W s s := by
  intro p _
  cases p <;> rfl

theorem ChangesOnly.mono {W W' : Part → Prop} {s t : State} (h : ChangesOnly W s t) (hW : ∀ p, W p → W' p) :
    ChangesOnly W' s t := fun p hp => h p fun hw => hp (hW p hw)

theorem Part.same_trans {p : Part} {s t u : State} (h : p.same s t) (g : p.same t u) : p.same s u := by
  cases p <;> exact Eq.trans g h

theorem ChangesOnly.trans {W : Part → Prop} {s t u : State} (h : ChangesOnly W s t) (g : ChangesOnly W t u) :
    ChangesOnly W s u := fun p hp => Part.same_trans (h p hp) (g p hp)

/-! ### One frame for each update -/

theorem ChangesOnly.setV (s : State) (x : Reg) (b : Byte) : ChangesOnly (fun p => p = .v x) s (s.setV x b) := by
  intro p hp
  cases p with
  | v y => exact State.getV_setV_ne s b fun h => hp (congrArg Part.v h)
  | _ => rfl

theorem ChangesOnly.setPC (s : State) (w : Word) : ChangesOnly (fun p => p = .pc) s (s.setPC w) := by
  intro p hp
  cases p <;> first | rfl | exact absurd rfl hp

theorem ChangesOnly.skipIf (s : State) (b : Bool) : ChangesOnly (fun p => p = .pc) s (s.skipIf b) := by
  cases b
  · exact ChangesOnly.refl _ s
  · exact ChangesOnly.setPC s _

theorem ChangesOnly.setI (s : State) (w : Word) : ChangesOnly (fun p => p = .i) s (s.setI w) := by
  intro p hp
  cases p <;> first | rfl | exact absurd rfl hp

theorem ChangesOnly.setDT (s : State) (b : Byte) : ChangesOnly (fun p => p = .dt) s (s.setDT b) := by
  intro p hp
  cases p <;> first | rfl | exact absurd rfl hp

theorem ChangesOnly.setST (s : State) (b : Byte) : ChangesOnly (fun p => p = .st) s (s.setST b) := by
  intro p hp
  cases p <;> first | rfl | exact absurd rfl hp

theorem ChangesOnly.setVid (s : State) (vid : Video) :
    ChangesOnly (fun p => ∃ r c, p = .pixel r c) s (s.setVid vid) := by
  intro p hp
  cases p <;> first | rfl | exact absurd ⟨_, _, rfl⟩ hp

theorem ChangesOnly.countDraw (s : State) : ChangesOnly (fun p => p = .draws) s s.countDraw := by
  intro p hp
  cases p <;> first | rfl | exact absurd rfl hp

theorem ChangesOnly.pop (s : State) : ChangesOnly (fun p => p = .sp) s s.pop := by
  intro p hp
  cases p <;> first | rfl | exact absurd rfl hp

theorem ChangesOnly.push (s : State) (w : Word) (h : s.sp.toNat < 16) :
    ChangesOnly (fun p => p = .sp ∨ ∃ k : Fin 16, k.val = s.sp.toNat ∧ p = .stack k) s (s.push w h) := by
  intro p hp
  cases p with
  | stack k =>
    show (s.push w h).stack[k] = s.stack[k]
    rw [State.stack_push, if_neg fun hk => hp (.inr ⟨k, hk, rfl⟩)]
  | sp => exact absurd (Or.inl rfl) hp
  | _ => rfl

theorem ChangesOnly.writeBytes (s : State) (a : Nat) (bs : List Byte) :
    ChangesOnly (fun p => ∃ k, k < bs.length ∧ p = .mem (a + k)) s (s.setMem (s.mem.writeBytes a bs)) := by
  intro p hp
  cases p with
  | mem j =>
    refine Memory.read_writeBytes_outside s.mem a j bs ?_
    by_contra hc
    exact hp ⟨j - a, by omega, congrArg Part.mem (by omega)⟩
  | _ => rfl

theorem ChangesOnly.setResultAndFlag (s : State) (x : Reg) (r f : Byte) :
    ChangesOnly (fun p => p = .v x ∨ p = .v VF) s (s.setResultAndFlag x r f) :=
  ((ChangesOnly.setV s x r).mono fun _ => Or.inl).trans ((ChangesOnly.setV _ VF f).mono fun _ => Or.inr)

theorem ChangesOnly.setRegsFrom (s : State) (k : Nat) (bs : List Byte) :
    ChangesOnly (fun p => ∃ y : Reg, k ≤ y.val ∧ y.val < k + bs.length ∧ p = .v y) s (s.setRegsFrom k bs) := by
  intro p hp
  cases p with
  | v y =>
    show (s.setRegsFrom k bs).getV y = s.getV y
    rw [State.getV_setRegsFrom, if_neg fun h => hp ⟨y, h.1, h.2, rfl⟩]
  | _ => rw [State.setRegsFrom_frame]; rfl

theorem ChangesOnly.timerPhase (s : State) : ChangesOnly (fun p => p = .dt ∨ p = .st) s s.timerPhase := by
  intro p hp
  cases p <;> first | rfl | exact absurd (Or.inl rfl) hp | exact absurd (Or.inr rfl) hp

theorem ChangesOnly.latch (s : State) (w : Word) : ChangesOnly (fun p => p = .opcode ∨ p = .pc) s (s.latch w) := by
  intro p hp
  cases p <;> first | rfl | exact absurd (Or.inl rfl) hp | exact absurd (Or.inr rfl) hp

/-! ### Shared operations of the meanings -/

/-- A store based at `I`: in range it stores and changes nothing else, out of range it faults (R68, R190). -/
theorem storeAtI_cases (bs : List Byte) (s : State) :
    (s.inRange bs.length = true ∧ storeAtI bs s = .next (s.setMem (s.mem.writeBytes s.i.toNat bs))) ∨
      (s.inRange bs.length = false ∧ ∃ t, storeAtI bs s = .next t ∧
        FaultTaken .memWriteRange (max s.i.toNat 4096) s t) := by
  unfold storeAtI
  by_cases h : s.inRange bs.length = true
  · rw [if_pos h]
    exact .inl ⟨h, rfl⟩
  · rw [if_neg h]
    exact .inr ⟨by simpa using h, raiseFault_taken .memWriteRange _ s⟩

/-- A skip on a key: an index up to 15 tests the key, a larger one faults (R225). -/
theorem skipOnKey_cases (x : Reg) (b : Bool) (s : State) :
    ((s.getV x).toNat ≤ 15 ∧ skipOnKey x b s = .next (s.skipIf (s.key (s.getV x).toNat == b))) ∨
      (15 < (s.getV x).toNat ∧ ∃ t, skipOnKey x b s = .next t ∧ FaultTaken .keyIndexRange (s.getV x).toNat s t) := by
  unfold skipOnKey
  by_cases h : (s.getV x).toNat > 15
  · rw [if_pos h]
    refine .inr ⟨h, ?_⟩
    have hw : (s.getV x).setWidth 17 = BitVec.ofNat 17 (s.getV x).toNat := by
      apply BitVec.eq_of_toNat_eq
      simp
    rw [hw]
    exact raiseFault_taken .keyIndexRange _ s
  · rw [if_neg h]
    exact .inl ⟨by omega, rfl⟩

end Sys2Proof.Machine
end

