-- ==== Sys2Proof/Laws/Exec.lean ====
section
/-! SUPPORT. The arms of `exec`, one equation each, so that no proof unfolds the dispatch. -/

namespace Sys2Proof.Machine

@[simp] theorem exec_cls (m : Nibble) (s : State) : exec (.cls m) s = execCls s := rfl

@[simp] theorem exec_ret (m : Nibble) (s : State) : exec (.ret m) s = execRet s := rfl

@[simp] theorem exec_jp (nnn : Addr12) (s : State) : exec (.jp nnn) s = execJp nnn s := rfl

@[simp] theorem exec_call (nnn : Addr12) (s : State) : exec (.call nnn) s = execCall nnn s := rfl

@[simp] theorem exec_seImm (x : Reg) (kk : Byte) (s : State) : exec (.seImm x kk) s = execSeImm x kk s := rfl

@[simp] theorem exec_sneImm (x : Reg) (kk : Byte) (s : State) : exec (.sneImm x kk) s = execSneImm x kk s := rfl

@[simp] theorem exec_seReg (x y : Reg) (z : Nibble) (s : State) : exec (.seReg x y z) s = execSeReg x y s := rfl

@[simp] theorem exec_ldImm (x : Reg) (kk : Byte) (s : State) : exec (.ldImm x kk) s = execLdImm x kk s := rfl

@[simp] theorem exec_addImm (x : Reg) (kk : Byte) (s : State) : exec (.addImm x kk) s = execAddImm x kk s := rfl

@[simp] theorem exec_ldReg (x y : Reg) (s : State) : exec (.ldReg x y) s = execLdReg x y s := rfl

@[simp] theorem exec_orReg (x y : Reg) (s : State) : exec (.orReg x y) s = execOr x y s := rfl

@[simp] theorem exec_andReg (x y : Reg) (s : State) : exec (.andReg x y) s = execAnd x y s := rfl

@[simp] theorem exec_xorReg (x y : Reg) (s : State) : exec (.xorReg x y) s = execXor x y s := rfl

@[simp] theorem exec_addReg (x y : Reg) (s : State) : exec (.addReg x y) s = execAddReg x y s := rfl

@[simp] theorem exec_sub (x y : Reg) (s : State) : exec (.sub x y) s = execSub x y s := rfl

@[simp] theorem exec_shr (x y : Reg) (s : State) : exec (.shr x y) s = execShr x s := rfl

@[simp] theorem exec_subn (x y : Reg) (s : State) : exec (.subn x y) s = execSubn x y s := rfl

@[simp] theorem exec_shl (x y : Reg) (s : State) : exec (.shl x y) s = execShl x s := rfl

@[simp] theorem exec_sneReg (x y : Reg) (z : Nibble) (s : State) : exec (.sneReg x y z) s = execSneReg x y s := rfl

@[simp] theorem exec_ldI (nnn : Addr12) (s : State) : exec (.ldI nnn) s = execLdI nnn s := rfl

@[simp] theorem exec_jpV0 (nnn : Addr12) (s : State) : exec (.jpV0 nnn) s = execJpV0 nnn s := rfl

@[simp] theorem exec_rnd (x : Reg) (kk : Byte) (s : State) : exec (.rnd x kk) s = execRnd x kk s := rfl

@[simp] theorem exec_drw (x y : Reg) (n : Fin 16) (s : State) : exec (.drw x y n) s = execDrw x y n s := rfl

@[simp] theorem exec_skp (x : Reg) (s : State) : exec (.skp x) s = execSkp x s := rfl

@[simp] theorem exec_sknp (x : Reg) (s : State) : exec (.sknp x) s = execSknp x s := rfl

@[simp] theorem exec_ldVxDT (x : Reg) (s : State) : exec (.ldVxDT x) s = execLdVxDT x s := rfl

@[simp] theorem exec_ldVxK (x : Reg) (s : State) : exec (.ldVxK x) s = execLdVxK x s := rfl

@[simp] theorem exec_ldDTVx (x : Reg) (s : State) : exec (.ldDTVx x) s = execLdDTVx x s := rfl

@[simp] theorem exec_ldSTVx (x : Reg) (s : State) : exec (.ldSTVx x) s = execLdSTVx x s := rfl

@[simp] theorem exec_addI (x : Reg) (s : State) : exec (.addI x) s = execAddI x s := rfl

@[simp] theorem exec_ldF (x : Reg) (s : State) : exec (.ldF x) s = execLdF x s := rfl

@[simp] theorem exec_ldB (x : Reg) (s : State) : exec (.ldB x) s = execLdB x s := rfl

@[simp] theorem exec_dumpRegs (x : Reg) (s : State) : exec (.dumpRegs x) s = execDumpRegs x s := rfl

@[simp] theorem exec_loadRegs (x : Reg) (s : State) : exec (.loadRegs x) s = execLoadRegs x s := rfl

@[simp] theorem exec_nop (w : Word) (s : State) : exec (.nop w) s = execNop s := rfl

end Sys2Proof.Machine
end

