-- ==== Sys2Proof/Laws/PerInstr.lean ====
section
/-! SUPPORT. One statement family over the syntax: the encoded word of an instruction lies in the instruction's row of the
opcode map (spec/30_encoding.md R96). -/

namespace Sys2Proof.Laws.EncodedInRow

/-- The word of `i` meets the mask and match of the row of `i`. -/
def Statement (i : Instr) : Prop := encode i &&& i.row.mask = i.row.bits

/-- Masking digit by digit. -/
theorem nibbles_and (a b c d a' b' c' d' : Nibble) :
    Machine.nibbles a b c d &&& Machine.nibbles a' b' c' d' =
      Machine.nibbles (a &&& a') (b &&& b') (c &&& c') (d &&& d') := by
  ext i hi
  simp only [Machine.nibbles]
  grind

theorem and_digit (a : Nibble) : a &&& 0xF = a := BitVec.and_allOnes

theorem and_no_digit (a : Nibble) : a &&& 0 = 0 := BitVec.and_zero

theorem masked_F000 (a b c d : Nibble) :
    Machine.nibbles a b c d &&& 0xF000 = Machine.nibbles a 0 0 0 := by
  rw [show (0xF000 : Word) = Machine.nibbles 0xF 0 0 0 from by decide, nibbles_and]
  simp only [and_digit, and_no_digit]

theorem masked_F00F (a b c d : Nibble) :
    Machine.nibbles a b c d &&& 0xF00F = Machine.nibbles a 0 0 d := by
  rw [show (0xF00F : Word) = Machine.nibbles 0xF 0 0 0xF from by decide, nibbles_and]
  simp only [and_digit, and_no_digit]

theorem masked_F0FF (a b c d : Nibble) :
    Machine.nibbles a b c d &&& 0xF0FF = Machine.nibbles a 0 c d := by
  rw [show (0xF0FF : Word) = Machine.nibbles 0xF 0 0xF 0xF from by decide, nibbles_and]
  simp only [and_digit, and_no_digit]

theorem masked_addr (a : Nibble) (nnn : Addr12) : a ++ nnn &&& 0xF000 = Machine.nibbles a 0 0 0 := by
  have h := Machine.nibbles_fields (a ++ nnn)
  rw [← h, masked_F000, Machine.groupOf_addr]

theorem masked_imm (a x : Nibble) (kk : Byte) : a ++ x ++ kk &&& 0xF000 = Machine.nibbles a 0 0 0 := by
  have h := Machine.nibbles_fields (a ++ x ++ kk)
  rw [← h, masked_F000, Machine.groupOf_imm]

theorem cls (m : Nibble) : Statement (.cls m) :=
  (masked_F0FF 0x0 m 0xE 0x0).trans (show Machine.nibbles 0x0 0x0 0xE 0x0 = (0x00E0 : Word) by decide)

theorem ret (m : Nibble) : Statement (.ret m) :=
  (masked_F0FF 0x0 m 0xE 0xE).trans (show Machine.nibbles 0x0 0x0 0xE 0xE = (0x00EE : Word) by decide)

theorem jp (nnn : Addr12) : Statement (.jp nnn) :=
  (masked_addr 0x1#4 nnn).trans (show Machine.nibbles 0x1 0 0 0 = (0x1000 : Word) by decide)

theorem call (nnn : Addr12) : Statement (.call nnn) :=
  (masked_addr 0x2#4 nnn).trans (show Machine.nibbles 0x2 0 0 0 = (0x2000 : Word) by decide)

theorem seImm (x : Reg) (kk : Byte) : Statement (.seImm x kk) :=
  (masked_imm 0x3#4 (Machine.regBits x) kk).trans (show Machine.nibbles 0x3 0 0 0 = (0x3000 : Word) by decide)

theorem sneImm (x : Reg) (kk : Byte) : Statement (.sneImm x kk) :=
  (masked_imm 0x4#4 (Machine.regBits x) kk).trans (show Machine.nibbles 0x4 0 0 0 = (0x4000 : Word) by decide)

theorem seReg (x : Reg) (y : Reg) (z : Nibble) : Statement (.seReg x y z) :=
  (masked_F000 0x5 (Machine.regBits x) (Machine.regBits y) z).trans (show Machine.nibbles 0x5 0x0 0x0 0x0 = (0x5000 : Word) by decide)

theorem ldImm (x : Reg) (kk : Byte) : Statement (.ldImm x kk) :=
  (masked_imm 0x6#4 (Machine.regBits x) kk).trans (show Machine.nibbles 0x6 0 0 0 = (0x6000 : Word) by decide)

theorem addImm (x : Reg) (kk : Byte) : Statement (.addImm x kk) :=
  (masked_imm 0x7#4 (Machine.regBits x) kk).trans (show Machine.nibbles 0x7 0 0 0 = (0x7000 : Word) by decide)

theorem ldReg (x : Reg) (y : Reg) : Statement (.ldReg x y) :=
  (masked_F00F 0x8 (Machine.regBits x) (Machine.regBits y) 0x0).trans (show Machine.nibbles 0x8 0x0 0x0 0x0 = (0x8000 : Word) by decide)

theorem orReg (x : Reg) (y : Reg) : Statement (.orReg x y) :=
  (masked_F00F 0x8 (Machine.regBits x) (Machine.regBits y) 0x1).trans (show Machine.nibbles 0x8 0x0 0x0 0x1 = (0x8001 : Word) by decide)

theorem andReg (x : Reg) (y : Reg) : Statement (.andReg x y) :=
  (masked_F00F 0x8 (Machine.regBits x) (Machine.regBits y) 0x2).trans (show Machine.nibbles 0x8 0x0 0x0 0x2 = (0x8002 : Word) by decide)

theorem xorReg (x : Reg) (y : Reg) : Statement (.xorReg x y) :=
  (masked_F00F 0x8 (Machine.regBits x) (Machine.regBits y) 0x3).trans (show Machine.nibbles 0x8 0x0 0x0 0x3 = (0x8003 : Word) by decide)

theorem addReg (x : Reg) (y : Reg) : Statement (.addReg x y) :=
  (masked_F00F 0x8 (Machine.regBits x) (Machine.regBits y) 0x4).trans (show Machine.nibbles 0x8 0x0 0x0 0x4 = (0x8004 : Word) by decide)

theorem sub (x : Reg) (y : Reg) : Statement (.sub x y) :=
  (masked_F00F 0x8 (Machine.regBits x) (Machine.regBits y) 0x5).trans (show Machine.nibbles 0x8 0x0 0x0 0x5 = (0x8005 : Word) by decide)

theorem shr (x : Reg) (y : Reg) : Statement (.shr x y) :=
  (masked_F00F 0x8 (Machine.regBits x) (Machine.regBits y) 0x6).trans (show Machine.nibbles 0x8 0x0 0x0 0x6 = (0x8006 : Word) by decide)

theorem subn (x : Reg) (y : Reg) : Statement (.subn x y) :=
  (masked_F00F 0x8 (Machine.regBits x) (Machine.regBits y) 0x7).trans (show Machine.nibbles 0x8 0x0 0x0 0x7 = (0x8007 : Word) by decide)

theorem shl (x : Reg) (y : Reg) : Statement (.shl x y) :=
  (masked_F00F 0x8 (Machine.regBits x) (Machine.regBits y) 0xE).trans (show Machine.nibbles 0x8 0x0 0x0 0xE = (0x800E : Word) by decide)

theorem sneReg (x : Reg) (y : Reg) (z : Nibble) : Statement (.sneReg x y z) :=
  (masked_F000 0x9 (Machine.regBits x) (Machine.regBits y) z).trans (show Machine.nibbles 0x9 0x0 0x0 0x0 = (0x9000 : Word) by decide)

theorem ldI (nnn : Addr12) : Statement (.ldI nnn) :=
  (masked_addr 0xA#4 nnn).trans (show Machine.nibbles 0xA 0 0 0 = (0xA000 : Word) by decide)

theorem jpV0 (nnn : Addr12) : Statement (.jpV0 nnn) :=
  (masked_addr 0xB#4 nnn).trans (show Machine.nibbles 0xB 0 0 0 = (0xB000 : Word) by decide)

theorem rnd (x : Reg) (kk : Byte) : Statement (.rnd x kk) :=
  (masked_imm 0xC#4 (Machine.regBits x) kk).trans (show Machine.nibbles 0xC 0 0 0 = (0xC000 : Word) by decide)

theorem drw (x : Reg) (y : Reg) (n : Fin 16) : Statement (.drw x y n) :=
  (masked_F000 0xD (Machine.regBits x) (Machine.regBits y) (Machine.regBits n)).trans (show Machine.nibbles 0xD 0x0 0x0 0x0 = (0xD000 : Word) by decide)

theorem skp (x : Reg) : Statement (.skp x) :=
  (masked_F0FF 0xE (Machine.regBits x) 0x9 0xE).trans (show Machine.nibbles 0xE 0x0 0x9 0xE = (0xE09E : Word) by decide)

theorem sknp (x : Reg) : Statement (.sknp x) :=
  (masked_F0FF 0xE (Machine.regBits x) 0xA 0x1).trans (show Machine.nibbles 0xE 0x0 0xA 0x1 = (0xE0A1 : Word) by decide)

theorem ldVxDT (x : Reg) : Statement (.ldVxDT x) :=
  (masked_F0FF 0xF (Machine.regBits x) 0x0 0x7).trans (show Machine.nibbles 0xF 0x0 0x0 0x7 = (0xF007 : Word) by decide)

theorem ldVxK (x : Reg) : Statement (.ldVxK x) :=
  (masked_F0FF 0xF (Machine.regBits x) 0x0 0xA).trans (show Machine.nibbles 0xF 0x0 0x0 0xA = (0xF00A : Word) by decide)

theorem ldDTVx (x : Reg) : Statement (.ldDTVx x) :=
  (masked_F0FF 0xF (Machine.regBits x) 0x1 0x5).trans (show Machine.nibbles 0xF 0x0 0x1 0x5 = (0xF015 : Word) by decide)

theorem ldSTVx (x : Reg) : Statement (.ldSTVx x) :=
  (masked_F0FF 0xF (Machine.regBits x) 0x1 0x8).trans (show Machine.nibbles 0xF 0x0 0x1 0x8 = (0xF018 : Word) by decide)

theorem addI (x : Reg) : Statement (.addI x) :=
  (masked_F0FF 0xF (Machine.regBits x) 0x1 0xE).trans (show Machine.nibbles 0xF 0x0 0x1 0xE = (0xF01E : Word) by decide)

theorem ldF (x : Reg) : Statement (.ldF x) :=
  (masked_F0FF 0xF (Machine.regBits x) 0x2 0x9).trans (show Machine.nibbles 0xF 0x0 0x2 0x9 = (0xF029 : Word) by decide)

theorem ldB (x : Reg) : Statement (.ldB x) :=
  (masked_F0FF 0xF (Machine.regBits x) 0x3 0x3).trans (show Machine.nibbles 0xF 0x0 0x3 0x3 = (0xF033 : Word) by decide)

theorem dumpRegs (x : Reg) : Statement (.dumpRegs x) :=
  (masked_F0FF 0xF (Machine.regBits x) 0x5 0x5).trans (show Machine.nibbles 0xF 0x0 0x5 0x5 = (0xF055 : Word) by decide)

theorem loadRegs (x : Reg) : Statement (.loadRegs x) :=
  (masked_F0FF 0xF (Machine.regBits x) 0x6 0x5).trans (show Machine.nibbles 0xF 0x0 0x6 0x5 = (0xF065 : Word) by decide)

theorem nop (w : Word) : Statement (.nop w) := BitVec.and_zero

end Sys2Proof.Laws.EncodedInRow
end

