-- ==== Sys2Proof/Tests/Slice0.lean ====
section
/-! SUPPORT. Tests of one step or one word each, and the witnesses of the statements' hypotheses. Expected values are those of
spec/95_test_vectors.md (its vector numbers stand in the comments) or the table a comment names, never the model's own. -/

namespace Sys2Proof.Tests

open Sys2Proof Sys2Proof.Machine

/-! ### Well-formedness: the one check, and terms it refuses -/

theorem test_nop_of_CLS_word_is_ill_formed : (Instr.nop 0x00E0).wellFormed = false := by decide
theorem test_nop_of_ADD_word_is_ill_formed : (Instr.nop 0x8AB4).wellFormed = false := by decide
theorem test_nop_of_SKP_word_is_ill_formed : (Instr.nop 0xEA9E).wellFormed = false := by decide
theorem test_nop_of_LD_word_is_ill_formed : (Instr.nop 0xFA65).wellFormed = false := by decide
theorem test_nop_of_JP_word_is_ill_formed : (Instr.nop 0x1000).wellFormed = false := by decide
theorem test_nop_of_unmapped_words_is_well_formed :
    (Instr.nop 0x0230).wellFormed && (Instr.nop 0x8ABF).wellFormed && (Instr.nop 0xEA91).wellFormed &&
      (Instr.nop 0xFA75).wellFormed := by decide

/-! ### Decoding: every constructor, from the words of 95_test_vectors.md section 2.7 -/

theorem test_decode_cls : decode 0x00E0 = .cls 0x0 ∧ decode 0x01E0 = .cls 0x1 := by decide
theorem test_decode_ret : decode 0x00EE = .ret 0x0 ∧ decode 0x0FEE = .ret 0xF := by decide
theorem test_decode_jp : decode 0x1000 = .jp 0x000 := by decide
theorem test_decode_call : decode 0x2FFF = .call 0xFFF := by decide
theorem test_decode_seImm : decode 0x3F00 = .seImm 15 0x00 := by decide
theorem test_decode_sneImm : decode 0x4012 = .sneImm 0 0x12 := by decide
theorem test_decode_seReg : decode 0x5AB0 = .seReg 10 11 0x0 ∧ decode 0x5AB7 = .seReg 10 11 0x7 := by decide
theorem test_decode_ldImm : decode 0x6ABC = .ldImm 10 0xBC := by decide
theorem test_decode_addImm : decode 0x7ABC = .addImm 10 0xBC := by decide
theorem test_decode_ldReg : decode 0x8AB0 = .ldReg 10 11 := by decide
theorem test_decode_orReg : decode 0x8AB1 = .orReg 10 11 := by decide
theorem test_decode_andReg : decode 0x8AB2 = .andReg 10 11 := by decide
theorem test_decode_xorReg : decode 0x8AB3 = .xorReg 10 11 := by decide
theorem test_decode_addReg : decode 0x8AB4 = .addReg 10 11 := by decide
theorem test_decode_sub : decode 0x8AB5 = .sub 10 11 := by decide
theorem test_decode_shr : decode 0x8AB6 = .shr 10 11 := by decide
theorem test_decode_subn : decode 0x8AB7 = .subn 10 11 := by decide
theorem test_decode_shl : decode 0x8ABE = .shl 10 11 := by decide
theorem test_decode_sneReg : decode 0x9AB0 = .sneReg 10 11 0x0 ∧ decode 0x9ABF = .sneReg 10 11 0xF := by decide
theorem test_decode_ldI : decode 0xA123 = .ldI 0x123 := by decide
theorem test_decode_jpV0 : decode 0xB123 = .jpV0 0x123 := by decide
theorem test_decode_rnd : decode 0xCA0F = .rnd 10 0x0F := by decide
theorem test_decode_drw : decode 0xDAB5 = .drw 10 11 5 ∧ decode 0xDAB0 = .drw 10 11 0 := by decide
theorem test_decode_skp : decode 0xEA9E = .skp 10 := by decide
theorem test_decode_sknp : decode 0xEAA1 = .sknp 10 := by decide
theorem test_decode_ldVxDT : decode 0xFA07 = .ldVxDT 10 := by decide
theorem test_decode_ldVxK : decode 0xFA0A = .ldVxK 10 := by decide
theorem test_decode_ldDTVx : decode 0xFA15 = .ldDTVx 10 := by decide
theorem test_decode_ldSTVx : decode 0xFA18 = .ldSTVx 10 := by decide
theorem test_decode_addI : decode 0xFA1E = .addI 10 := by decide
theorem test_decode_ldF : decode 0xFA29 = .ldF 10 := by decide
theorem test_decode_ldB : decode 0xFA33 = .ldB 10 := by decide
theorem test_decode_dumpRegs : decode 0xFA55 = .dumpRegs 10 := by decide
theorem test_decode_loadRegs : decode 0xFA65 = .loadRegs 10 := by decide

/-- The words of the table that select no instruction. -/
theorem test_decode_nop :
    [0x0000#16, 0x00E1, 0x00FE, 0x0230, 0x00CE, 0x8AB8, 0x8ABD, 0x8ABF, 0xEA9F, 0xEA91, 0xEA0E, 0xEAFF, 0xFA00, 0xFA75,
      0xFA85].all (fun w => decode w == .nop w) := by decide

/-- The three words whose reading the table gives for `SUBKEY_0E = low_nibble` too. -/
theorem test_decode_low_nibble :
    decodeWith .lowNibble 0x00CE = .ret 0 ∧ decodeWith .lowNibble 0xEA91 = .sknp 10 ∧
      decodeWith .lowNibble 0xEA0E = .skp 10 := by decide

/-- Bytes, high one first (20_memory.md R66), and too few of them. -/
theorem test_decode_bytes :
    decodeBytes [0x6A, 0xBC, 0x00] = .ok (.ldImm 10 0xBC, [0x00]) ∧ decodeBytes [0x6A] = .error .truncated := by
  exact ⟨rfl, rfl⟩

theorem test_decode_table_word : decodeTableWord 16 0x8AB4 = some (.addReg 10 11) := by decide

/-! ### One step of each instruction -/

/-- The reset state with some registers set. -/
def withRegs (vs : List (Reg × Byte)) : State := vs.foldl (fun s p => s.setV p.1 p.2) State.reset

/-- The reset state with bytes stored from `a` on and `I` pointing at `i`. -/
def withBytes (a : Nat) (bytes : List Byte) (i : Word) : State :=
  (State.reset.setMem (State.reset.mem.writeBytes a bytes)).setI i

/-- The state after one step from `s`. -/
def after (s : State) : State :=
  match step s with
  | .next t => t
  | .fault _ => s
  | .refused _ => s

/-- `p` holds of the state one step after the word `w` is placed in `s`. -/
def runs (s : State) (w : Nat) (p : State → Bool) : Bool :=
  match step (s.withFetchWord 16 w) with
  | .next t => p t
  | .fault _ => false
  | .refused _ => false

/-- T110: a lit pixel goes dark, `VF` stays. -/
theorem test_CLS :
    runs { withRegs [(15, 1)] with vid := Video.dark.setPixel 3 4 true } 0x00E0
      (fun t => !t.pixel 3 4 && t.getV VF == 1 && t.pc == 0x202) := by decide

/-- T4: the alias, and the entry below `SP`. -/
theorem test_RET :
    runs { State.reset with sp := 2, stack := (State.reset.stack.set 0 0x300).set 1 0x400 } 0x07EE
      (fun t => t.pc == 0x400 && t.sp == 1) := by decide
/-- T2. -/
theorem test_RET_underflow :
    runs State.reset 0x00EE (fun t => t.fault == ⟨true, 5, 0x200, 0⟩ && t.pc == 0x200 && t.sp == 0) := by decide
/-- T6. -/
theorem test_JP : runs { State.reset with dt := 2 } 0x1200 (fun t => t.pc == 0x200 && t.dt == 1) := by decide
/-- T8. -/
theorem test_CALL :
    runs { State.reset with pc := 0x204 } 0x2300 (fun t => t.stack[0] == 0x206 && t.sp == 1 && t.pc == 0x300) := by
  decide
/-- T10. -/
theorem test_CALL_overflow :
    runs { State.reset with sp := 16 } 0x2300 (fun t => t.fault == ⟨true, 4, 0x200, 16⟩ && t.pc == 0x200) := by decide
/-- T11. -/
theorem test_SE_immediate_skips : runs (withRegs [(10, 5)]) 0x3A05 (fun t => t.pc == 0x204) := by decide
/-- T12. -/
theorem test_SE_immediate_goes_on : runs (withRegs [(10, 6)]) 0x3A05 (fun t => t.pc == 0x202) := by decide
/-- T14. -/
theorem test_SNE_immediate_goes_on : runs (withRegs [(10, 5)]) 0x4A05 (fun t => t.pc == 0x202) := by decide
/-- T15. -/
theorem test_SNE_immediate_skips : runs (withRegs [(10, 6)]) 0x4A05 (fun t => t.pc == 0x204) := by decide
/-- T19: the alias. -/
theorem test_SE_registers_skips : runs (withRegs [(1, 7), (2, 7)]) 0x512F (fun t => t.pc == 0x204) := by decide
/-- T17. -/
theorem test_SE_registers_goes_on : runs (withRegs [(1, 7), (2, 8)]) 0x5120 (fun t => t.pc == 0x202) := by decide
/-- T20. -/
theorem test_SNE_registers_skips : runs (withRegs [(1, 7), (2, 8)]) 0x9120 (fun t => t.pc == 0x204) := by decide
/-- T21. -/
theorem test_SNE_registers_goes_on : runs (withRegs [(1, 7), (2, 7)]) 0x9120 (fun t => t.pc == 0x202) := by decide
/-- T24. -/
theorem test_JP_V0_is_not_masked : runs (withRegs [(0, 0xFF)]) 0xBFFF (fun t => t.pc == 0x10FE) := by decide
/-- T25: `V2` plays no part. -/
theorem test_JP_V0_reads_V0 : runs (withRegs [(0, 2), (2, 0x55)]) 0xB2FE (fun t => t.pc == 0x300) := by decide

/-- T31. -/
theorem test_LD_immediate : runs State.reset 0x6FAB (fun t => t.getV VF == 0xAB) := by decide
/-- T32. -/
theorem test_LD_register : runs (withRegs [(2, 0x3C)]) 0x8120 (fun t => t.getV 1 == 0x3C) := by decide
/-- T34. -/
theorem test_ADD_immediate_wraps : runs (withRegs [(1, 0xFF)]) 0x7101 (fun t => t.getV 1 == 0 && t.getV VF == 0) := by
  decide
/-- T36. -/
theorem test_ADD_immediate_to_VF : runs (withRegs [(15, 0xFF)]) 0x7F02 (fun t => t.getV VF == 1) := by decide
/-- T37. -/
theorem test_OR :
    runs (withRegs [(1, 0xF0), (2, 0x0F), (15, 1)]) 0x8121 (fun t => t.getV 1 == 0xFF && t.getV VF == 1) := by decide
/-- T38. -/
theorem test_AND :
    runs (withRegs [(1, 0xF3), (2, 0x3C), (15, 1)]) 0x8122 (fun t => t.getV 1 == 0x30 && t.getV VF == 1) := by decide
/-- T39. -/
theorem test_XOR :
    runs (withRegs [(1, 0xFF), (2, 0x0F), (15, 1)]) 0x8123 (fun t => t.getV 1 == 0xF0 && t.getV VF == 1) := by decide
/-- T44. -/
theorem test_ADD_at_255 :
    runs (withRegs [(1, 0x80), (2, 0x7F), (15, 1)]) 0x8124 (fun t => t.getV 1 == 0xFF && t.getV VF == 0) := by decide
/-- T46. -/
theorem test_ADD_to_VF_leaves_the_carry : runs (withRegs [(15, 0xF0), (1, 0x20)]) 0x8F14 (fun t => t.getV VF == 1) := by
  decide
/-- T51. -/
theorem test_SUB_equal :
    runs (withRegs [(1, 0x33), (2, 0x33)]) 0x8125 (fun t => t.getV 1 == 0 && t.getV VF == 1) := by decide
/-- T52. -/
theorem test_SUB_borrow :
    runs (withRegs [(1, 0), (2, 1), (15, 1)]) 0x8125 (fun t => t.getV 1 == 0xFF && t.getV VF == 0) := by decide
/-- T57. -/
theorem test_SUBN_borrow :
    runs (withRegs [(1, 0x0C), (2, 0x0A)]) 0x8127 (fun t => t.getV 1 == 0xFE && t.getV VF == 0) := by decide
/-- T59. -/
theorem test_SUBN_to_VF : runs (withRegs [(15, 5), (1, 9)]) 0x8F17 (fun t => t.getV VF == 1) := by decide
/-- T61. -/
theorem test_SHR_ignores_Vy :
    runs (withRegs [(1, 4), (2, 0xFF), (15, 1)]) 0x8126 (fun t => t.getV 1 == 2 && t.getV VF == 0 && t.getV 2 == 0xFF) := by
  decide
/-- T65. -/
theorem test_SHR_of_VF : runs (withRegs [(15, 2)]) 0x8F06 (fun t => t.getV VF == 0) := by decide
/-- T66. -/
theorem test_SHL : runs (withRegs [(1, 0x81)]) 0x810E (fun t => t.getV 1 == 2 && t.getV VF == 1) := by decide
/-- T71. -/
theorem test_SHL_of_VF : runs (withRegs [(15, 0x7F)]) 0x8F0E (fun t => t.getV VF == 0) := by decide
/-- T72, with the draw left free: the mask clears the high digit. -/
theorem test_RND : (after (State.reset.withFetchWord 16 0xC10F)).getV 1 = Config.freeDraw 0 &&& 0x0F := rfl

/-- T81. -/
theorem test_LD_I : runs State.reset 0xAFFF (fun t => t.i == 0x0FFF) := by decide
/-- T84. -/
theorem test_ADD_I_wraps : runs ((withRegs [(1, 1)]).setI 0xFFFF) 0xF11E (fun t => t.i == 0 && t.getV VF == 0) := by
  decide
/-- T83. -/
theorem test_ADD_I_passes_memory : runs ((withRegs [(1, 1)]).setI 0x0FFF) 0xF11E (fun t => t.i == 0x1000) := by decide
/-- T85. -/
theorem test_LD_F : runs (withRegs [(1, 0x0A)]) 0xF129 (fun t => t.i == 0x82) := by decide
/-- T89: no mask to a digit. -/
theorem test_LD_F_of_a_byte : runs (withRegs [(1, 0xFF)]) 0xF129 (fun t => t.i == 0x54B) := by decide
/-- T94: the last legal place. -/
theorem test_LD_B :
    runs ((withRegs [(1, 0x69)]).setI 0xFFD) 0xF133
      (fun t => t.peek 0xFFD == 1 && t.peek 0xFFE == 0 && t.peek 0xFFF == 5) := by decide
/-- T95. -/
theorem test_LD_B_out_of_range :
    runs ((withRegs [(1, 0x69)]).setI 0xFFE) 0xF133
      (fun t => t.fault == ⟨true, 3, 0x200, 4096⟩ && t.peek 0xFFE == 0 && t.pc == 0x200) := by decide
/-- T97. -/
theorem test_dump :
    runs ((withRegs [(0, 0x11), (1, 0x22), (2, 0x33), (3, 0x44)]).setI 0x300) 0xF255
      (fun t => t.peek 0x300 == 0x11 && t.peek 0x302 == 0x33 && t.peek 0x303 == 0 && t.i == 0x300) := by decide
/-- T99: no partial store. -/
theorem test_dump_out_of_range :
    runs ((withRegs [(0, 0xAB), (1, 0xCD)]).setI 0xFFF) 0xF155
      (fun t => t.fault == ⟨true, 3, 0x200, 4096⟩ && t.peek 0xFFF == 0) := by decide
/-- T101. -/
theorem test_load :
    runs ((withBytes 0x300 [2, 3, 4, 5] 0x300).setV 3 0x77) 0xF265
      (fun t => t.getV 0 == 2 && t.getV 2 == 4 && t.getV 3 == 0x77 && t.i == 0x300) := by decide
/-- T103: no partial load. -/
theorem test_load_out_of_range :
    runs (withBytes 0xFFF [0x5A] 0xFFF) 0xF165 (fun t => t.fault == ⟨true, 2, 0x200, 4096⟩ && t.getV 0 == 0) := by decide

/-- T114: both wraps. -/
theorem test_DRW_wraps :
    runs (((withBytes 0x300 [0xFF, 0x81] 0x300).setV 1 63).setV 2 31) 0xD122
      (fun t => t.pixel 31 63 && t.pixel 31 0 && t.pixel 31 6 && !t.pixel 31 7 && t.pixel 0 63 && t.pixel 0 6 &&
        !t.pixel 0 0 && t.getV VF == 0) := by decide
/-- T113: a collision. -/
theorem test_DRW_collides :
    runs { withBytes 0x300 [0xF0, 0x90, 0x90, 0x90, 0xF0] 0x300 with vid := Video.dark.setPixel 0 0 true } 0xD125
      (fun t => !t.pixel 0 0 && t.pixel 0 1 && t.pixel 4 3 && t.getV VF == 1) := by decide

/-- T130. -/
theorem test_SKP : runs { withRegs [(1, 10)] with keys := 0x0400 } 0xE19E (fun t => t.pc == 0x204) := by decide
/-- T132. -/
theorem test_SKP_beyond_F :
    runs { withRegs [(1, 16)] with keys := 0xFFFF } 0xE19E (fun t => t.fault == ⟨true, 6, 0x200, 16⟩) := by decide
/-- T133. -/
theorem test_SKNP : runs (withRegs [(1, 10)]) 0xE1A1 (fun t => t.pc == 0x204) := by decide
/-- T135. -/
theorem test_SKNP_beyond_F : runs (withRegs [(1, 255)]) 0xE1A1 (fun t => t.fault == ⟨true, 6, 0x200, 255⟩) := by decide
/-- T137. -/
theorem test_LD_from_DT : runs { State.reset with dt := 42 } 0xF107 (fun t => t.getV 1 == 42 && t.dt == 41) := by decide
/-- T140: the lowest key. -/
theorem test_key_wait_ends :
    runs { withRegs [(3, 0x55)] with pc := 0x204, keys := 0x0280 } 0xF30A (fun t => t.getV 3 == 7 && t.pc == 0x206) := by
  decide
/-- T139: the timers run. -/
theorem test_key_wait :
    runs { withRegs [(3, 0x55)] with pc := 0x204, dt := 2, st := 1 } 0xF30A
      (fun t => t.getV 3 == 0x55 && t.pc == 0x204 && t.dt == 1 && t.st == 0) := by decide
/-- T143. -/
theorem test_LD_to_DT : runs (withRegs [(1, 60)]) 0xF115 (fun t => t.dt == 59) := by decide
/-- T147. -/
theorem test_LD_to_ST :
    runs { withRegs [(1, 255)] with st := 3, dt := 1 } 0xF118 (fun t => t.st == 254 && t.dt == 0) := by decide
/-- T150. -/
theorem test_NOP :
    runs { State.reset with dt := 1, st := 255 } 0x0000 (fun t => t.pc == 0x202 && t.dt == 0 && t.st == 254) := by decide
/-- T75. -/
theorem test_NOP_of_group_8 :
    runs { withRegs [(1, 1), (2, 2)] with dt := 3 } 0x8128 (fun t => t.getV 1 == 1 && t.getV VF == 0 && t.dt == 2) := by
  decide

/-! ### The cycle, reset and the host -/

/-- T157, T159. -/
theorem test_fetch_out_of_range :
    (after { State.reset with pc := 0xFFF }).fault = ⟨true, 1, 0xFFF, 4096⟩ ∧
      (after { State.reset with pc := 0xFFFF }).fault = ⟨true, 1, 0xFFFF, 0xFFFF⟩ := by decide

/-- T160: an odd `PC`. -/
theorem test_odd_PC :
    runs { State.reset with pc := 0x201 } 0x6105 (fun t => t.getV 1 == 5 && t.pc == 0x203) := by decide

/-- R64, rows 0 and F of its table: the first and the last five bytes of the font in the reset memory. -/
theorem test_font :
    State.reset.mem.readBytes 0x050 5 = [0xF0, 0x90, 0x90, 0x90, 0xF0] ∧
      State.reset.mem.readBytes 0x09B 6 = [0xF0, 0x80, 0xF0, 0x80, 0x80, 0] := by decide

/-- A font that is not the default one: every byte 0x3C. -/
def otherFont : Config.FontData := Vector.replicate 80 0x3C

/-- R291 for a machine with another font: its first and last byte, and the bytes beside them. -/
theorem test_reset_with_another_font :
    (State.resetWith otherFont).peek 0x050 = 0x3C ∧ (State.resetWith otherFont).peek 0x09F = 0x3C ∧
      (State.resetWith otherFont).peek 0x04F = 0 ∧ (State.resetWith otherFont).peek 0x0A0 = 0 := by decide

/-- T104's first and last register: the first and the sixteenth byte of the default font. -/
theorem test_load_from_the_default_font :
    runs (State.reset.setI 0x50) 0xFF65 (fun t => t.getV 0 == 0xF0 && t.getV 5 == 0x20 && t.getV VF == 0xF0) := by decide

/-- Memory's canonical form: writing back what an unlisted address reads as removes the entry, and addresses rise. -/
theorem test_memory_canonical :
    (Memory.write (Memory.write [] 0x300 7) 0x200 9) = [(0x200, 9), (0x300, 7)] ∧
      Memory.write [(0x200, 9), (0x300, 7)] 0x200 0 = [(0x300, 7)] ∧ Memory.write [(0x51, 0)] 0x51 0x90 = [] ∧
      Memory.wf [(0x200, 9), (0x300, 7)] = true ∧ Memory.wf [(0x300, 7), (0x200, 9)] = false ∧
      Memory.wf [(0x050, 0xF0)] = false ∧ Memory.wf [(0x1000, 1)] = false := by decide

/-- E9's load: `LOAD_ERR` 0 and the two bytes in place. -/
theorem test_load_image :
    (State.reset.load [0x00, 0xE0]).peek 0x201 = 0xE0 ∧ (State.reset.load [0x00, 0xE0]).loadErr = false := by decide

/-- T163. -/
theorem test_load_oversize : (State.reset.load (List.replicate 3585 1)).loadErr = true := by
  unfold State.load
  rw [if_neg (by rw [List.length_replicate]; decide)]

/-- R30: any non-zero byte of a byte-per-key host means pressed. -/
theorem test_keys_of_bytes : keysOfBytes ((Vector.replicate 16 0).set 10 0x80) = 0x0400 := by decide

/-- R32: the exported value of a lit and of a dark pixel. -/
theorem test_video_cells :
    ({ State.reset with vid := Video.dark.setPixel 1 2 true }.videoCell 66 = 0xFFFFFFFF) ∧
      State.reset.videoCell 66 = 0 := by decide

/-! ### Witnesses: for each statement with hypotheses, data that meet all of them, clause by clause at the boundaries -/

/-- The reset state at `pc`, with the word `w` there. -/
def placed (pc : Word) (w : Nat) : State := State.withFetchWord { State.reset with pc := pc } 16 w

theorem witness_DecodeOfEncode : (Instr.nop 0x8AB8).wellFormed = true ∧ (Instr.drw 15 0 15).wellFormed = true := by decide

theorem witness_EncodeOfDecode :
    (Instr.shl 10 11).wellFormed = true ∧ encode (.shl 10 11) = 0x8ABE ∧
      (Instr.nop 0xFFFF).wellFormed = true ∧ encode (.nop 0xFFFF) = 0xFFFF := by decide

theorem witness_OpcodeMap :
    (⟨0xF00F, 0x8004⟩ : OpcodeRow) ∈ opcodeMap ∧ (0x8AB4#16 &&& 0xF00F = 0x8004) ∧
      (∀ r ∈ opcodeMap, 0x8AB8#16 &&& r.mask ≠ r.bits) := by decide

/-- Both outcomes of an execution, and the last legal `PC`. -/
theorem witness_StepRunsTheFetchedInstruction :
    (placed 0x200 0x6105).ready ∧ (placed 4094 0x1200).ready ∧
      (∃ t, exec (decode (placed 0x200 0x6105).nextWord)
        { placed 0x200 0x6105 with opcode := (placed 0x200 0x6105).nextWord, pc := (placed 0x200 0x6105).pc + 2 } = .next t ∧
        t.fault.valid = false) ∧
      (∃ t, exec (decode (placed 0x200 0x00EE).nextWord)
        { placed 0x200 0x00EE with opcode := (placed 0x200 0x00EE).nextWord, pc := (placed 0x200 0x00EE).pc + 2 } = .next t ∧
        t.fault.valid = true) :=
  ⟨by decide, by decide, ⟨_, rfl, by decide⟩, ⟨_, rfl, by decide⟩⟩

/-- The clause of a stop needs a stack pointer above 16. -/
theorem witness_StepRunsTheFetchedInstruction_stop :
    State.ready { placed 0x200 0x00EE with sp := 17 } ∧
      exec (decode (State.nextWord { placed 0x200 0x00EE with sp := 17 }))
        { placed 0x200 0x00EE with sp := 17, opcode := State.nextWord { placed 0x200 0x00EE with sp := 17 }, pc := 0x202 } =
          .fault .stackPointerBeyondStack :=
  ⟨by decide, rfl⟩

theorem witness_FetchBeyondMemory :
    State.running { State.reset with pc := 4094 } ∧ State.running { State.reset with pc := 4095 } ∧
      State.running { State.reset with pc := 4096 } ∧ State.running { State.reset with pc := 0xFFFF } := by decide

/-- A state in which a stack underflow stands. -/
def faulted : State := after (placed 0x200 0x00EE)

theorem witness_StepWhileFaulted : faulted.fault.valid = true := by decide

/-- A step that faults in the execution, and one that faults in the fetch. -/
theorem witness_FaultsArePrecise :
    (placed 0x200 0x00EE).running ∧ step (placed 0x200 0x00EE) = .next faulted ∧ faulted.fault.valid = true ∧
      State.running { State.reset with pc := 4095 } ∧
      step { State.reset with pc := 4095 } = .next (after { State.reset with pc := 4095 }) ∧
      (after { State.reset with pc := 4095 }).fault.valid = true :=
  ⟨by decide, rfl, by decide, by decide, rfl, by decide⟩

/-- A cycle with no fault, and one of each cause at the first value that raises it. -/
theorem witness_FaultTable :
    (placed 0x200 0x6105).running ∧ step (placed 0x200 0x6105) = .next (after (placed 0x200 0x6105)) ∧ cycleFault (placed 0x200 0x6105) = none ∧
      cycleFault { State.reset with pc := 4095 } = some (.fetchRange, 4096) ∧
      cycleFault { placed 0x200 0xD122 with i := 4095 } = some (.memReadRange, 4096) ∧
      cycleFault { placed 0x200 0xF155 with i := 4095 } = some (.memWriteRange, 4096) ∧
      cycleFault { placed 0x200 0x2300 with sp := 16 } = some (.stackOverflow, 16) ∧
      cycleFault (placed 0x200 0x00EE) = some (.stackUnderflow, 0) ∧
      cycleFault ((placed 0x200 0xE19E).setV 1 16) = some (.keyIndexRange, 16) :=
  ⟨by decide, rfl, by decide, by decide, by decide, by decide, by decide, by decide, by decide⟩

/-- The three cases of the timers: loaded, read, neither. -/
theorem witness_TimersGoDown :
    (placed 0x200 0xF115).running ∧ step (placed 0x200 0xF115) = .next (after (placed 0x200 0xF115)) ∧
      (after (placed 0x200 0xF115)).fault.valid = false ∧ decode (placed 0x200 0xF115).nextWord = .ldDTVx 1 ∧
      (placed 0x200 0xF107).running ∧ step (placed 0x200 0xF107) = .next (after (placed 0x200 0xF107)) ∧
      (after (placed 0x200 0xF107)).fault.valid = false ∧ decode (placed 0x200 0xF107).nextWord = .ldVxDT 1 ∧
      (placed 0x200 0xF118).running ∧ step (placed 0x200 0xF118) = .next (after (placed 0x200 0xF118)) ∧
      (after (placed 0x200 0xF118)).fault.valid = false ∧ decode (placed 0x200 0xF118).nextWord = .ldSTVx 1 :=
  ⟨by decide, rfl, by decide, by decide, by decide, rfl, by decide, by decide, by decide, rfl, by decide, by decide⟩

theorem witness_ProgramCounterAfter :
    (placed 0x200 0x3000).running ∧ step (placed 0x200 0x3000) = .next (after (placed 0x200 0x3000)) ∧
      (after (placed 0x200 0x3000)).fault.valid = false ∧ step (placed 0x200 0x00EE) = .next faulted ∧
      faulted.fault.valid = true :=
  ⟨by decide, rfl, by decide, rfl, by decide⟩

theorem witness_PlacedWord :
    State.reset.mem.wf = true ∧ State.running { State.reset with pc := 4094 } ∧ faulted.mem.wf = true := by decide

/-- The last place from which a pair of dumped bytes can be fetched: `I` + 15 = 4095, `PC` = 4094. -/
theorem witness_StoredBytesAreFetched :
    ∃ t, exec (.dumpRegs 15) { State.reset with i := 4080, pc := 4094 } = .next t ∧ State.reset.mem.wf = true ∧
      State.running { State.reset with i := 4080, pc := 4094 } ∧ t.pc.toNat = 4080 + 14 :=
  ⟨_, rfl, by decide, by decide, by decide⟩

/-- An execution that faults and one that does not. -/
theorem witness_EachInstructionChanges :
    (∃ t, exec (.addReg 1 2) State.reset = .next t) ∧ (faultOf (.addReg 1 2) State.reset).isSome = false ∧
      (∃ t, exec (.ret 0) State.reset = .next t) ∧ (faultOf (.ret 0) State.reset).isSome = true :=
  ⟨⟨_, rfl⟩, rfl, ⟨_, rfl⟩, rfl⟩

theorem witness_FlagRegisterWriters :
    (∃ t, exec (.drw 0 1 5) (State.reset.setI 0x50) = .next t) ∧ faultOf (.drw 0 1 5) (State.reset.setI 0x50) = none ∧
      (∃ t, exec (.drw 0 1 5) (State.reset.setI 4092) = .next t) ∧ faultOf (.drw 0 1 5) (State.reset.setI 4092) ≠ none ∧
      (∃ t, exec (.loadRegs 14) State.reset = .next t) ∧ (14 : Reg) ≠ VF :=
  ⟨⟨_, rfl⟩, by decide, ⟨_, rfl⟩, by decide, ⟨_, rfl⟩, by decide⟩

/-- A store at the last address. -/
theorem witness_OnlyTwoInstructionsStore :
    ∃ t, exec (.dumpRegs 0) ((State.reset.setI 4095).setV 0 1) = .next t ∧
      t.peek 4095 ≠ ((State.reset.setI 4095).setV 0 1).peek 4095 :=
  ⟨_, rfl, by decide⟩

/-- Each piece of state is changed by some execution. -/
theorem witness_EachPieceOfStateHasItsWriters :
    (∃ t, exec (.call 0x300) State.reset = .next t ∧ t.stack ≠ State.reset.stack ∧ t.sp ≠ State.reset.sp) ∧
      (∃ t, exec (.ldI 1) State.reset = .next t ∧ t.i ≠ State.reset.i) ∧
      (∃ t, exec (.ldDTVx 1) (State.reset.setV 1 9) = .next t ∧ t.dt ≠ (State.reset.setV 1 9).dt) ∧
      (∃ t, exec (.ldSTVx 1) (State.reset.setV 1 9) = .next t ∧ t.st ≠ (State.reset.setV 1 9).st) ∧
      (∃ t, exec (.drw 0 1 5) (State.reset.setI 0x50) = .next t ∧ t.vid ≠ (State.reset.setI 0x50).vid) ∧
      (∃ t, exec (.ret 0) State.reset = .next t ∧ t.fault ≠ State.reset.fault) :=
  ⟨⟨_, rfl, by decide, by decide⟩, ⟨_, rfl, by decide⟩, ⟨_, rfl, by decide⟩, ⟨_, rfl, by decide⟩,
    ⟨_, rfl, fun h => absurd (congrArg (fun v => Video.pixel v 0 0) h) (by decide)⟩, ⟨_, rfl, by decide⟩⟩

/-- A state of the invariant with a full stack, the largest `PC`, and a byte stored at the last address. -/
def fullState : State :=
  { State.reset with
    pc := 0x10FE
    sp := 16
    stack := Vector.replicate 16 0x1000
    mem := [(0xFFF, 0xFF)] }

theorem witness_EveryStepKeepsTheInvariant : fullState.Inv ∧ step fullState = .next (after fullState) :=
  ⟨{ memory := by decide
     sp_le := by decide
     pc_le := by decide
     stack_le := by decide
     fault_legal := ⟨fun _ => ⟨rfl, rfl, rfl⟩, fun h => absurd h (by decide)⟩
     fault_pc := fun h => absurd h (by decide) }, rfl⟩

/-- A state of the invariant in which a fault stands; the histories and `NoStepStops` start from it as well. -/
theorem witness_EveryHostHistory : faulted.Inv ∧ step faulted = .next faulted :=
  ⟨{ memory := by decide
     sp_le := by decide
     pc_le := by decide
     stack_le := by decide
     fault_legal := ⟨fun h => absurd h (by decide), fun _ => by decide⟩
     fault_pc := fun _ => by decide }, rfl⟩

theorem witness_NoStepStops : fullState.Inv := witness_EveryStepKeepsTheInvariant.1

theorem witness_StackPointerAboveSixteen : 16 < (State.sp { State.reset with sp := 17 }).toNat ∧
    16 < (State.sp { State.reset with sp := 255 }).toNat := by decide

/-- A standing fault and each kind of request. -/
theorem witness_OnlyResetClearsAFault :
    faulted.fault.valid = true ∧ (∃ t, HostOp.apply otherFont .reset faulted = .next t) ∧
      (∃ t, HostOp.apply otherFont (.load [1, 2]) faulted = .next t) ∧ (∃ t, HostOp.apply otherFont (.keys 0xFFFF) faulted = .next t) ∧
      (∃ t, HostOp.apply otherFont .step faulted = .next t) :=
  ⟨by decide, ⟨_, rfl⟩, ⟨_, rfl⟩, ⟨_, rfl⟩, ⟨_, rfl⟩⟩

theorem witness_ResetLeavesTheseValues : HostOp.apply otherFont .reset faulted = .next (faulted.resetOperation otherFont) :=
  rfl

/-- The empty image and the largest one. -/
theorem witness_LoadCopiesTheImage :
    State.reset.mem.wf = true ∧ ([] : List Byte).length ≤ 3584 ∧ (List.replicate 3584 (0x01 : Byte)).length ≤ 3584 :=
  ⟨by decide, by decide, by rw [List.length_replicate]⟩

theorem witness_OversizeLoad : 3584 < (List.replicate 3585 (0x01 : Byte)).length ∧ State.reset.ready :=
  ⟨by rw [List.length_replicate]; decide, by decide⟩

/-- Underflow, the first entry and the last one. -/
theorem witness_RetPops :
    State.reset.sp = 0 ∧ (State.sp { State.reset with sp := 1 }).toNat = (0 : Fin 16).val + 1 ∧
      (State.sp { State.reset with sp := 16 }).toNat = (15 : Fin 16).val + 1 := by decide

/-- Overflow, the first entry and the last one. -/
theorem witness_CallPushes :
    State.sp { State.reset with sp := 16 } = 16 ∧ State.reset.sp.toNat = (0 : Fin 16).val ∧
      (State.sp { State.reset with sp := 15 }).toNat = (15 : Fin 16).val := by decide

/-- The last call that fits, with the state it leaves as the state `RET` runs in. -/
theorem witness_RetUndoesCall :
    (State.sp { State.reset with sp := 15 }).toNat < 16 ∧
      ∃ t, exec (.call 0xFFF) { State.reset with sp := 15 } = .next t ∧
        (t.setI 7).sp = t.sp ∧ (t.setI 7).stack = t.stack :=
  ⟨by decide, _, rfl, rfl, rfl⟩

theorem witness_FinishedStaysFinished : (placed 0x200 0x1200).finished := ⟨by decide, 0x200, by decide, by decide⟩

theorem witness_UnmappedWord :
    unmappedWord 0x8128 = true ∧ (placed 0x200 0x8128).ready ∧ (placed 0x200 0x8128).nextWord = 0x8128 := by decide

/-- The sums and differences of a register other than `VF`. -/
theorem witness_flag_destination : (1 : Reg) ≠ VF := by decide

/-- The last place that fits and the first that does not. -/
theorem witness_BcdStores :
    State.reset.mem.wf = true ∧ (State.reset.setI 4093).i.toNat + 2 ≤ 4095 ∧ (State.reset.setI 4094).i.toNat + 2 > 4095 := by
  decide

theorem witness_DumpStores :
    State.reset.mem.wf = true ∧ (State.reset.setI 4080).i.toNat + (15 : Reg).val ≤ 4095 ∧
      (State.reset.setI 4081).i.toNat + (15 : Reg).val > 4095 ∧ (0 : Reg).val ≤ (15 : Reg).val := by decide

theorem witness_LoadFills :
    (State.reset.setI 4095).i.toNat + (0 : Reg).val ≤ 4095 ∧ (State.reset.setI 4096).i.toNat + (0 : Reg).val > 4095 ∧
      (0 : Reg).val ≤ (0 : Reg).val := by decide

theorem witness_DumpThenLoad :
    State.reset.mem.wf = true ∧ (State.reset.setI 4090).i.toNat + (5 : Reg).val ≤ 4095 ∧
      ∃ t, exec (.dumpRegs 5) (State.reset.setI 4090) = .next t ∧ (t.setV 3 9).i = t.i ∧
        ∀ a : Nat, (t.setV 3 9).peek a = t.peek a :=
  ⟨by decide, by decide, _, rfl, rfl, fun _ => rfl⟩

/-- No row, the last rows that fit, the first that do not. -/
theorem witness_DrawToggles_ranges :
    (0 : Fin 16).val = 0 ∧ (State.reset.setI 4081).i.toNat + (15 : Fin 16).val - 1 ≤ 4095 ∧
      (15 : Fin 16).val > 0 ∧ (State.reset.setI 4082).i.toNat + (15 : Fin 16).val - 1 > 4095 := by decide

/-- Glyph 0 at the origin: a pixel under a set bit, one that no bit covers, and a collision. -/
theorem witness_DrawToggles_pixels :
    SpriteCovers (State.reset.setI 0x50) 0 1 5 0 0 ∧ ¬ SpriteCovers (State.reset.setI 0x50) 0 1 5 31 63 ∧
      SpriteCovers { State.reset.setI 0x50 with vid := Video.dark.setPixel 0 0 true } 0 1 5 0 0 ∧
      State.pixel { State.reset.setI 0x50 with vid := Video.dark.setPixel 0 0 true } 0 0 = true := by
  refine ⟨⟨0, 0, by decide⟩, ?_, ⟨0, 0, by decide⟩, by decide⟩
  rintro ⟨row, col, hrow, -, -, hr, -⟩
  have h : (31 : Nat) = (0 + row) % 32 := hr
  omega

/-- The same glyph on a dark screen; and row 0 has a set bit. -/
theorem witness_DrawingTwice :
    (0 : Reg) ≠ VF ∧ (1 : Reg) ≠ VF ∧ faultOf (.drw 0 1 5) (State.reset.setI 0x50) = none ∧
      (∃ t, exec (.drw 0 1 5) (State.reset.setI 0x50) = .next t) ∧
      (∀ (r : Fin 32) (c : Fin 64), SpriteCovers (State.reset.setI 0x50) 0 1 5 r c →
        (State.reset.setI 0x50).pixel r c = false) ∧
      ((State.reset.setI 0x50).peek 0x50).getLsbD 7 = true :=
  ⟨by decide, by decide, by decide, ⟨_, rfl⟩, fun r c _ => Video.pixel_dark r c, by decide⟩

/-- The last key index and the first value that is none. -/
theorem witness_SkipsOnAKey :
    ((State.reset.setV 1 15).getV 1).toNat ≤ 15 ∧ ((State.reset.setV 1 16).getV 1).toNat > 15 := by decide

/-- No key; the lowest key 0, and 15; a waiting cycle. -/
theorem witness_KeyWait :
    (∀ k : Nat, k < 16 → State.reset.key k = false) ∧
      (State.key { State.reset with keys := 0xFFFF } 0 = true) ∧
      (State.key { State.reset with keys := 0x8000 } 15 = true ∧
        ∀ j : Nat, j < 15 → State.key { State.reset with keys := 0x8000 } j = false) ∧
      (placed 0x200 0xF10A).ready ∧ decode (placed 0x200 0xF10A).nextWord = .ldVxK 1 ∧
      (∀ k : Nat, k < 16 → (placed 0x200 0xF10A).key k = false) := by decide

theorem witness_TimerTransfers :
    (placed 0x200 0xF107).ready ∧ decode (placed 0x200 0xF107).nextWord = .ldVxDT 1 ∧
      (placed 0x200 0xFF15).ready ∧ decode (placed 0x200 0xFF15).nextWord = .ldDTVx 15 ∧
      (placed 0x200 0xF018).ready ∧ decode (placed 0x200 0xF018).nextWord = .ldSTVx 0 := by decide

end Sys2Proof.Tests
end

section
/-! SUPPORT. What executing an instruction does: the fault it takes where the fault table gives one, otherwise its frame. -/

namespace Sys2Proof.Machine

/-! ### The fault table through the range check of the model (spec/60_exceptions.md R251) -/

theorem faultOf_drw (x y : Reg) (n : Fin 16) (s : State) :
    faultOf (.drw x y n) s = if s.inRange n.val then none else some (.memReadRange, max s.i.toNat 4096) := by
  simp only [faultOf, State.inRange_iff, ← ite_not (p := n.val = 0 ∨ _)]
  exact if_congr (by omega) rfl rfl

theorem faultOf_loadRegs (x : Reg) (s : State) :
    faultOf (.loadRegs x) s = if s.inRange (x.val + 1) then none else some (.memReadRange, max s.i.toNat 4096) := by
  simp only [faultOf, State.inRange_succ_iff, ← ite_not (p := s.i.toNat + x.val ≤ 4095), not_le, gt_iff_lt]

theorem faultOf_ldB (x : Reg) (s : State) :
    faultOf (.ldB x) s = if s.inRange 3 then none else some (.memWriteRange, max s.i.toNat 4096) := by
  simp only [faultOf, State.inRange_succ_iff, ← ite_not (p := s.i.toNat + 2 ≤ 4095), not_le, gt_iff_lt]

theorem faultOf_dumpRegs (x : Reg) (s : State) :
    faultOf (.dumpRegs x) s = if s.inRange (x.val + 1) then none else some (.memWriteRange, max s.i.toNat 4096) := by
  simp only [faultOf, State.inRange_succ_iff, ← ite_not (p := s.i.toNat + x.val ≤ 4095), not_le, gt_iff_lt]

/-- The value a fault records is at most 0xFFFF, although the field has 17 bits (R36). -/
theorem faultOf_info_le {i : Instr} {s : State} {cause : FaultCause} {info : Nat}
    (hf : faultOf i s = some (cause, info)) : info ≤ 0xFFFF := by
  have hi := s.i.isLt
  cases i with
  | drw x y n | loadRegs x | ldB x | dumpRegs x | call nnn | ret m =>
    simp only [faultOf, Option.ite_none_right_eq_some, Option.some.injEq, Prod.mk.injEq] at hf
    omega
  | skp x | sknp x =>
    have hx := (s.getV x).isLt
    simp only [faultOf, Option.ite_none_right_eq_some, Option.some.injEq, Prod.mk.injEq] at hf
    omega
  | _ => cases hf

/-! ### An instruction that faults -/

/-- A store whose range passes the end of memory. -/
theorem storeAtI_of_not_inRange {bs : List Byte} {s : State} (h : ¬ s.inRange bs.length = true) :
    storeAtI bs s = raiseFault .memWriteRange s.rangeInfo s := if_neg h

/-- A skip on a value that is no key index. -/
theorem skipOnKey_of_gt {x : Reg} (b : Bool) {s : State} (h : (s.getV x).toNat > 15) :
    skipOnKey x b s = raiseFault .keyIndexRange (BitVec.ofNat 17 (s.getV x).toNat) s := by
  have hw : (s.getV x).setWidth 17 = BitVec.ofNat 17 (s.getV x).toNat := BitVec.eq_of_toNat_eq (by simp)
  rw [← hw]
  exact if_pos h

/-- Where the fault table gives an instruction a fault, executing it raises that fault and does nothing else. -/
theorem exec_of_faultOf {i : Instr} {s : State} {cause : FaultCause} {info : Nat}
    (hf : faultOf i s = some (cause, info)) : exec i s = raiseFault cause (BitVec.ofNat 17 info) s := by
  cases i with
  | drw x y n =>
    simp only [faultOf_drw, Option.ite_none_left_eq_some] at hf
    obtain ⟨hr, ⟨⟩⟩ := hf
    exact if_neg hr
  | loadRegs x =>
    simp only [faultOf_loadRegs, Option.ite_none_left_eq_some] at hf
    obtain ⟨hr, ⟨⟩⟩ := hf
    exact if_neg hr
  | ldB x =>
    simp only [faultOf_ldB, Option.ite_none_left_eq_some] at hf
    obtain ⟨hr, ⟨⟩⟩ := hf
    exact storeAtI_of_not_inRange hr
  | dumpRegs x =>
    simp only [faultOf_dumpRegs, Option.ite_none_left_eq_some] at hf
    obtain ⟨hr, ⟨⟩⟩ := hf
    exact storeAtI_of_not_inRange (by rwa [State.length_firstRegs])
  | call nnn =>
    simp only [faultOf, Option.ite_none_right_eq_some] at hf
    obtain ⟨hsp, ⟨⟩⟩ := hf
    exact if_pos (BitVec.eq_of_toNat_eq hsp)
  | ret m =>
    simp only [faultOf, Option.ite_none_right_eq_some] at hf
    obtain ⟨hsp, ⟨⟩⟩ := hf
    exact if_pos (BitVec.eq_of_toNat_eq hsp)
  | skp x | sknp x =>
    simp only [faultOf, Option.ite_none_right_eq_some] at hf
    obtain ⟨hx, ⟨⟩⟩ := hf
    exact skipOnKey_of_gt _ hx
  | _ => cases hf

/-- An instruction that faults takes the fault of the table. -/
theorem faultTaken_of_faultOf {i : Instr} {s t : State} {cause : FaultCause} {info : Nat}
    (hf : faultOf i s = some (cause, info)) (h : exec i s = .next t) : FaultTaken cause info s t := by
  obtain ⟨u, hu, hut⟩ := raiseFault_taken cause info s
  rw [exec_of_faultOf hf, hu] at h
  cases h
  exact hut

/-! ### The instructions that can fault, where they do not -/

theorem exec_drw_of_no_fault {x y : Reg} {n : Fin 16} {s : State} (hf : faultOf (.drw x y n) s = none) :
    exec (.drw x y n) s =
      .next ((s.setVid (s.drawSprite x y n).vid).setV VF (flagByte (s.drawSprite x y n).hit)) := by
  simp only [faultOf_drw, ite_eq_left_iff, reduceCtorEq, imp_false, not_not] at hf
  exact if_pos hf

theorem exec_loadRegs_of_no_fault {x : Reg} {s : State} (hf : faultOf (.loadRegs x) s = none) :
    exec (.loadRegs x) s = .next (s.setRegsFrom 0 (s.mem.readBytes s.i.toNat (x.val + 1))) := by
  simp only [faultOf_loadRegs, ite_eq_left_iff, reduceCtorEq, imp_false, not_not] at hf
  exact if_pos hf

theorem exec_ldB_of_no_fault {x : Reg} {s : State} (hf : faultOf (.ldB x) s = none) :
    s.i.toNat + 2 ≤ 4095 ∧
      exec (.ldB x) s = .next (s.setMem (s.mem.writeBytes s.i.toNat (bcdDigits (s.getV x)))) := by
  simp only [faultOf_ldB, ite_eq_left_iff, reduceCtorEq, imp_false, not_not] at hf
  exact ⟨(State.inRange_succ_iff s 2).mp hf, if_pos hf⟩

theorem exec_dumpRegs_of_no_fault {x : Reg} {s : State} (hf : faultOf (.dumpRegs x) s = none) :
    s.i.toNat + x.val ≤ 4095 ∧
      exec (.dumpRegs x) s = .next (s.setMem (s.mem.writeBytes s.i.toNat (s.firstRegs x))) := by
  simp only [faultOf_dumpRegs, ite_eq_left_iff, reduceCtorEq, imp_false, not_not] at hf
  exact ⟨(State.inRange_succ_iff s x.val).mp hf, if_pos (by rwa [State.length_firstRegs])⟩

theorem skipOnKey_of_le {x : Reg} (b : Bool) {s : State} (h : (s.getV x).toNat ≤ 15) :
    skipOnKey x b s = .next (s.skipIf (s.key (s.getV x).toNat == b)) := if_neg (by omega)

theorem exec_skp_of_no_fault {x : Reg} {s : State} (hf : faultOf (.skp x) s = none) :
    exec (.skp x) s = .next (s.skipIf (s.key (s.getV x).toNat)) := by
  simp only [faultOf, ite_eq_right_iff, reduceCtorEq, imp_false, not_lt, gt_iff_lt] at hf
  rw [exec_skp, execSkp, skipOnKey_of_le true hf, beq_true]

theorem exec_sknp_of_no_fault {x : Reg} {s : State} (hf : faultOf (.sknp x) s = none) :
    exec (.sknp x) s = .next (s.skipIf (!s.key (s.getV x).toNat)) := by
  simp only [faultOf, ite_eq_right_iff, reduceCtorEq, imp_false, not_lt, gt_iff_lt] at hf
  rw [exec_sknp, execSknp, skipOnKey_of_le false hf, beq_false]

/-- A return that answers a next state and does not fault found a return address. -/
theorem exec_ret_of_no_fault {m : Nibble} {s t : State} (hf : faultOf (.ret m) s = none)
    (h : exec (.ret m) s = .next t) :
    s.sp.toNat ≠ 0 ∧ ∃ hsp : s.sp.toNat - 1 < 16, t = s.pop.setPC (s.top hsp) := by
  simp only [faultOf, ite_eq_right_iff, reduceCtorEq, imp_false] at hf
  rw [exec_ret, execRet, if_neg fun h0 => hf (congrArg BitVec.toNat h0)] at h
  split at h
  · cases h
    exact ⟨hf, ‹_›, rfl⟩
  · cases h

/-- A call that answers a next state and does not fault found room for a return address. -/
theorem exec_call_of_no_fault {nnn : Addr12} {s t : State} (hf : faultOf (.call nnn) s = none)
    (h : exec (.call nnn) s = .next t) :
    ∃ hsp : s.sp.toNat < 16, t = (s.push s.pc hsp).setPC (zext16 nnn) := by
  simp only [faultOf, ite_eq_right_iff, reduceCtorEq, imp_false] at hf
  rw [exec_call, execCall, if_neg fun h0 => hf (congrArg BitVec.toNat h0)] at h
  split at h
  · cases h
    exact ⟨‹_›, rfl⟩
  · cases h

/-! ### Waiting for a key (spec/45_timer_keypad.md R229) -/

theorem exec_ldVxK_of_no_key {s : State} (x : Reg) (hk : s.keys = 0) :
    exec (.ldVxK x) s = .next (s.setPC (s.pc - 2)) := by
  rw [exec_ldVxK, execLdVxK, (State.lowestKey_eq_none_iff s).mpr hk]

theorem exec_ldVxK_of_key {s : State} (x : Reg) (hk : s.keys ≠ 0) :
    ∃ k : Nat, s.lowestKey = some k ∧ exec (.ldVxK x) s = .next (s.setV x (BitVec.ofNat 8 k)) := by
  obtain ⟨k, hlow⟩ := Option.ne_none_iff_exists'.mp fun h => hk ((State.lowestKey_eq_none_iff s).mp h)
  exact ⟨k, hlow, by rw [exec_ldVxK, execLdVxK, hlow]⟩

/-! ### Frames -/

/-- An instruction that does not fault changes only what its rule names. -/
theorem exec_frame {i : Instr} {s t : State} (hf : faultOf i s = none) (h : exec i s = .next t) :
    ChangesOnly (mayWrite i s) s t := by
  cases i with
  | cls m =>
    cases h
    exact ChangesOnly.setVid s _
  | ret m =>
    obtain ⟨-, hsp, rfl⟩ := exec_ret_of_no_fault hf h
    exact ((ChangesOnly.pop s).mono fun _ => Or.inr).trans ((ChangesOnly.setPC _ _).mono fun _ => Or.inl)
  | call nnn =>
    obtain ⟨hsp, rfl⟩ := exec_call_of_no_fault hf h
    exact ((ChangesOnly.push s _ hsp).mono fun _ => Or.inr).trans ((ChangesOnly.setPC _ _).mono fun _ => Or.inl)
  | jp nnn | jpV0 nnn =>
    cases h
    exact ChangesOnly.setPC s _
  | seImm | sneImm | seReg | sneReg =>
    cases h
    exact ChangesOnly.skipIf s _
  | skp x =>
    rw [exec_skp_of_no_fault hf] at h
    cases h
    exact ChangesOnly.skipIf s _
  | sknp x =>
    rw [exec_sknp_of_no_fault hf] at h
    cases h
    exact ChangesOnly.skipIf s _
  | ldImm | addImm | ldReg | orReg | andReg | xorReg | ldVxDT =>
    cases h
    exact ChangesOnly.setV s _ _
  | addReg x y | sub x y | shr x y | subn x y | shl x y =>
    cases h
    exact ChangesOnly.setResultAndFlag s x _ _
  | rnd x kk =>
    cases h
    exact ((ChangesOnly.countDraw s).mono fun _ => Or.inr).trans ((ChangesOnly.setV _ x _).mono fun _ => Or.inl)
  | ldI | addI | ldF =>
    cases h
    exact ChangesOnly.setI s _
  | drw x y n =>
    rw [exec_drw_of_no_fault hf] at h
    cases h
    exact ((ChangesOnly.setVid s _).mono fun _ => Or.inr).trans ((ChangesOnly.setV _ VF _).mono fun _ => Or.inl)
  | ldVxK x =>
    by_cases hk : s.keys = 0
    · rw [exec_ldVxK_of_no_key x hk] at h
      cases h
      exact (ChangesOnly.setPC s _).mono fun p hp => by rwa [mayWrite, if_pos hk]
    · obtain ⟨k, -, hexec⟩ := exec_ldVxK_of_key x hk
      rw [hexec] at h
      cases h
      exact (ChangesOnly.setV s x _).mono fun p hp => by rwa [mayWrite, if_neg hk]
  | ldDTVx x =>
    cases h
    exact ChangesOnly.setDT s _
  | ldSTVx x =>
    cases h
    exact ChangesOnly.setST s _
  | ldB x =>
    rw [(exec_ldB_of_no_fault hf).2] at h
    cases h
    exact ChangesOnly.writeBytes s s.i.toNat (bcdDigits (s.getV x))
  | dumpRegs x =>
    rw [(exec_dumpRegs_of_no_fault hf).2] at h
    cases h
    refine (ChangesOnly.writeBytes s _ _).mono ?_
    rintro p ⟨k, hk, rfl⟩
    rw [State.length_firstRegs] at hk
    exact ⟨k, by omega, rfl⟩
  | loadRegs x =>
    rw [exec_loadRegs_of_no_fault hf] at h
    cases h
    refine (ChangesOnly.setRegsFrom s _ _).mono ?_
    rintro p ⟨y, -, hy, rfl⟩
    rw [Memory.length_readBytes] at hy
    exact ⟨y, by omega, rfl⟩
  | nop w =>
    cases h
    exact ChangesOnly.refl _ s

/-- Settles O17: an instruction that faults takes the fault of the table and nothing else, and one that does not keeps its
frame. -/
theorem eachInstructionChangesOnlyItsDestinations : Obligations.EachInstructionChangesOnlyItsDestinations := by
  intro i s t h
  cases hf : faultOf i s with
  | none => exact exec_frame hf h
  | some f =>
    obtain ⟨-, -, hframe⟩ := faultTaken_of_faultOf hf h
    exact hframe

/-- Faulting or not, an instruction leaves alone what its rule does not name, `PC` and `FAULT` apart. -/
theorem exec_same {i : Instr} {s t : State} (h : exec i s = .next t) {p : Part} (hp : ¬ mayWrite i s p)
    (hpc : p ≠ .pc) (hfault : p ≠ .fault) : p.same s t := by
  refine eachInstructionChangesOnlyItsDestinations i s t h p fun hW => ?_
  split at hW
  · exact hW.elim hpc hfault
  · exact hp hW

end Sys2Proof.Machine
end

section
/-! SUPPORT. What a whole step does, where each instruction leaves `PC`, and that every step keeps the invariant. -/

namespace Sys2Proof.Machine

/-! ### The invariant at reset -/

/-- Settles O21: nothing of the reset state depends on the font but memory, which the font's bytes leave canonical. -/
theorem resetMeetsTheInvariant : Obligations.ResetMeetsTheInvariant := by
  have hreset : State.reset.Inv :=
    { memory := rfl
      sp_le := by decide
      pc_le := by decide
      stack_le := by decide
      fault_legal := ⟨fun _ => ⟨rfl, rfl, rfl⟩, nofun⟩
      fault_pc := nofun }
  exact ⟨hreset, fun font => { hreset with memory := State.resetWith_wf font }⟩

/-! ### What a step can do -/

theorem not_mayWrite_fault (i : Instr) (s : State) : ¬ mayWrite i s .fault := by
  cases i <;> simp [mayWrite]

/-- An instruction that does not fault leaves the fault record alone. -/
theorem fault_of_exec {i : Instr} {s t : State} (hf : faultOf i s = none) (h : exec i s = .next t) :
    t.fault = s.fault :=
  exec_frame hf h .fault (not_mayWrite_fault i s)

/-- The four things a step can do: nothing while a fault stands; record the fetch fault; record the fault of the fetched
instruction; or run the instruction to its end and the timers after it (spec/40_cycle.md R120, R121, R123, R128). -/
theorem step_cases {s t : State} (h : step s = .next t) :
    (s.fault.valid = true ∧ t = s) ∨
    (s.running ∧ 4095 ≤ s.pc.toNat ∧ t = s.fetchFault) ∨
    (s.ready ∧ ∃ cause info, faultOf (decode s.nextWord) (s.latch s.nextWord) = some (cause, info) ∧
      t = s.recordFault s.pc cause (BitVec.ofNat 17 info)) ∨
    (s.ready ∧ faultOf (decode s.nextWord) (s.latch s.nextWord) = none ∧
      ∃ u, exec (decode s.nextWord) (s.latch s.nextWord) = .next u ∧ u.fault = s.fault ∧ t = u.timerPhase) := by
  by_cases hrun : s.running
  · by_cases hpc : s.pc.toNat ≤ 4094
    · have hready : s.ready := ⟨hrun, hpc⟩
      rw [step_ready hready, endCycle_next_iff] at h
      obtain ⟨u, hu, rfl⟩ := h
      cases hf : faultOf (decode s.nextWord) (s.latch s.nextWord) with
      | none =>
        have hfault := fault_of_exec hf hu
        rw [State.latch_fault] at hfault
        exact .inr (.inr (.inr ⟨hready, rfl, u, hu, hfault, if_neg (by simp [hfault, hrun])⟩))
      | some f =>
        rw [exec_of_faultOf hf] at hu
        cases hu
        have hpc0 : (s.latch s.nextWord).pc0 = s.pc := BitVec.add_sub_cancel s.pc 2
        exact .inr (.inr (.inl ⟨hready, f.1, f.2, rfl, by rw [hpc0]; rfl⟩))
    · rw [step_fetchFault hrun (by omega)] at h
      cases h
      exact .inr (.inl ⟨hrun, by omega, rfl⟩)
  · have hstands : s.fault.valid = true := by simpa using hrun
    rw [step_faulted hstands] at h
    cases h
    exact .inl ⟨hstands, rfl⟩

/-! ### The program counter (spec/10_state.md R24) -/

theorem pc_skipIf_latch (s : State) (w : Word) (c : Bool) :
    ((s.latch w).skipIf c).pc = if c then s.pc + 4 else s.pc + 2 := by
  cases c
  · rfl
  · exact BitVec.add_assoc s.pc 2 2

/-- The most recent stack entry, as the PC table reads it. -/
theorem State.top_eq_getD (s : State) (h : s.sp.toNat - 1 < 16) :
    s.top h = s.stack.toList.getD (s.sp.toNat - 1) 0 := by
  simp [State.top, h]

/-- Run after phase 3, an instruction that does not fault leaves `PC` where R24's table says. -/
theorem pc_of_exec_latch {i : Instr} {s t : State} {w : Word} (hf : faultOf i (s.latch w) = none)
    (h : exec i (s.latch w) = .next t) : t.pc = nextPC i s := by
  cases i with
  | seImm | sneImm | seReg | sneReg =>
    cases h
    simp only [pc_skipIf_latch, nextPC, beq_iff_eq, bne_iff_ne]
    rfl
  | skp x =>
    rw [exec_skp_of_no_fault hf] at h
    cases h
    exact pc_skipIf_latch s w _
  | sknp x =>
    rw [exec_sknp_of_no_fault hf] at h
    cases h
    simp only [pc_skipIf_latch, nextPC, Bool.not_eq_true']
    rfl
  | jp | jpV0 =>
    cases h
    rfl
  | call nnn =>
    obtain ⟨hsp, rfl⟩ := exec_call_of_no_fault hf h
    rfl
  | ret m =>
    obtain ⟨-, hsp, rfl⟩ := exec_ret_of_no_fault hf h
    exact State.top_eq_getD _ hsp
  | ldVxK x =>
    by_cases hk : s.keys = 0
    · rw [exec_ldVxK_of_no_key (s := s.latch w) x hk] at h
      cases h
      rw [nextPC, if_pos hk]
      exact BitVec.add_sub_cancel s.pc 2
    · obtain ⟨k, -, hexec⟩ := exec_ldVxK_of_key (s := s.latch w) x hk
      rw [hexec] at h
      cases h
      rw [nextPC, if_neg hk]
      rfl
  | _ => exact exec_frame hf h .pc (by simp [mayWrite])

/-- Settles O14: a cycle that faults leaves `PC` alone, any other one leaves it where its instruction does. -/
theorem programCounterAfterEachInstruction : Obligations.ProgramCounterAfterEachInstruction := by
  intro s t hrun h
  rcases step_cases h with ⟨hstands, -⟩ | ⟨-, -, rfl⟩ | ⟨-, cause, info, -, rfl⟩ | ⟨-, hf, u, hu, hfault, rfl⟩
  · exact absurd hrun (by simp [hstands])
  · rfl
  · rfl
  · have hok : u.timerPhase.fault.valid = false := (congrArg FaultRecord.valid hfault).trans hrun
    rw [hok, State.timerPhase_pc]
    exact pc_of_exec_latch hf hu

/-! ### The invariant, part by part -/

/-- An instruction other than the two stores that does not fault leaves the list of memory itself alone. -/
theorem mem_of_exec {i : Instr} {s t : State} (hf : faultOf i s = none) (h : exec i s = .next t)
    (hB : ∀ x, i ≠ .ldB x) (hdump : ∀ x, i ≠ .dumpRegs x) : t.mem = s.mem := by
  cases i with
  | ldB x => exact absurd rfl (hB x)
  | dumpRegs x => exact absurd rfl (hdump x)
  | drw x y n =>
    rw [exec_drw_of_no_fault hf] at h
    cases h
    rfl
  | loadRegs x =>
    rw [exec_loadRegs_of_no_fault hf] at h
    cases h
    rw [State.setRegsFrom_frame]
  | skp x =>
    rw [exec_skp_of_no_fault hf] at h
    cases h
    exact State.skipIf_mem s _
  | sknp x =>
    rw [exec_sknp_of_no_fault hf] at h
    cases h
    exact State.skipIf_mem s _
  | seImm | sneImm | seReg | sneReg =>
    cases h
    exact State.skipIf_mem s _
  | ret m =>
    obtain ⟨-, hsp, rfl⟩ := exec_ret_of_no_fault hf h
    rfl
  | call nnn =>
    obtain ⟨hsp, rfl⟩ := exec_call_of_no_fault hf h
    rfl
  | ldVxK x =>
    by_cases hk : s.keys = 0
    · rw [exec_ldVxK_of_no_key x hk] at h
      cases h
      rfl
    · obtain ⟨k, -, hexec⟩ := exec_ldVxK_of_key x hk
      rw [hexec] at h
      cases h
      rfl
  | _ =>
    cases h
    rfl

/-- An instruction that does not fault keeps memory canonical: the range check keeps a store below address 4096. -/
theorem wf_of_exec {i : Instr} {s t : State} (hf : faultOf i s = none) (h : exec i s = .next t)
    (hm : s.mem.wf = true) : t.mem.wf = true := by
  by_cases hB : ∃ x, i = .ldB x
  · obtain ⟨x, rfl⟩ := hB
    obtain ⟨hi, hexec⟩ := exec_ldB_of_no_fault hf
    rw [hexec] at h
    cases h
    exact Memory.wf_writeBytes hm (show s.i.toNat + 3 ≤ 4096 by omega)
  by_cases hdump : ∃ x, i = .dumpRegs x
  · obtain ⟨x, rfl⟩ := hdump
    obtain ⟨hi, hexec⟩ := exec_dumpRegs_of_no_fault hf
    rw [hexec] at h
    cases h
    exact Memory.wf_writeBytes hm (by rw [State.length_firstRegs]; omega)
  · rw [mem_of_exec hf h (not_exists.mp hB) (not_exists.mp hdump)]
    exact hm

theorem mayWrite_sp {i : Instr} {s : State} (h : mayWrite i s .sp) : (∃ nnn, i = .call nnn) ∨ ∃ m, i = .ret m := by
  cases i with
  | call nnn => exact .inl ⟨nnn, rfl⟩
  | ret m => exact .inr ⟨m, rfl⟩
  | _ => simp [mayWrite] at h

theorem mayWrite_stack {i : Instr} {s : State} {k : Fin 16} (h : mayWrite i s (.stack k)) : ∃ nnn, i = .call nnn := by
  cases i with
  | call nnn => exact ⟨nnn, rfl⟩
  | _ => simp [mayWrite] at h

/-- `SP` stays within 0..16: a call goes up from below 16 and a return down from above 0 (R27). -/
theorem sp_le_of_exec {i : Instr} {s t : State} (hf : faultOf i s = none) (h : exec i s = .next t)
    (hsp : s.sp.toNat ≤ 16) : t.sp.toNat ≤ 16 := by
  by_cases hW : mayWrite i s .sp
  · obtain ⟨nnn, rfl⟩ | ⟨m, rfl⟩ := mayWrite_sp hW
    · obtain ⟨hlt, rfl⟩ := exec_call_of_no_fault hf h
      rw [State.setPC_sp, State.push_sp, BitVec.toNat_add]
      exact (Nat.mod_le _ _).trans hlt
    · obtain ⟨hne, hlt, rfl⟩ := exec_ret_of_no_fault hf h
      rw [State.setPC_sp, State.pop_sp, BitVec.toNat_sub_of_le (show 1 ≤ s.sp.toNat by omega)]
      exact (Nat.sub_le _ _).trans hsp
  · rw [show t.sp = s.sp from exec_frame hf h .sp hW]
    exact hsp

/-- A stack entry is an address at most 4096 as long as `PC`, which a call pushes, is one. -/
theorem stack_le_of_exec {i : Instr} {s t : State} (hf : faultOf i s = none) (h : exec i s = .next t)
    (hpc : s.pc.toNat ≤ 4096) (hstack : ∀ k : Fin 16, s.stack[k].toNat ≤ 4096) (k : Fin 16) :
    t.stack[k].toNat ≤ 4096 := by
  by_cases hW : mayWrite i s (.stack k)
  · obtain ⟨nnn, rfl⟩ := mayWrite_stack hW
    obtain ⟨hlt, rfl⟩ := exec_call_of_no_fault hf h
    rw [State.setPC_stack, State.stack_push]
    split
    · exact hpc
    · exact hstack k
  · rw [show t.stack[k] = s.stack[k] from exec_frame hf h (.stack k) hW]
    exact hstack k

theorem stack_getD_le {s : State} (hstack : ∀ k : Fin 16, s.stack[k].toNat ≤ 4096) (n : Nat) :
    (s.stack.toList.getD n 0).toNat ≤ 4096 := by
  by_cases hn : n < 16
  · simpa [hn] using hstack ⟨n, hn⟩
  · simp [hn]

/-- The PC table never leads above 0x10FE, the largest target of `JP V0, nnn` (R23). -/
theorem nextPC_le {s : State} (hpc : s.pc.toNat ≤ 4094) (hstack : ∀ k : Fin 16, s.stack[k].toNat ≤ 4096) (i : Instr) :
    (nextPC i s).toNat ≤ 0x10FE := by
  have h2 : (s.pc + 2).toNat ≤ 0x10FE := by bv_omega
  have h4 : (s.pc + 4).toNat ≤ 0x10FE := by bv_omega
  cases i with
  | seImm | sneImm | seReg | sneReg | skp | sknp =>
    rw [nextPC]
    split
    · exact h4
    · exact h2
  | jp nnn | call nnn =>
    have := nnn.isLt
    rw [nextPC, BitVec.toNat_setWidth]
    omega
  | jpV0 nnn =>
    have := nnn.isLt
    have := (s.getV 0).isLt
    rw [nextPC, BitVec.toNat_add, BitVec.toNat_setWidth, BitVec.toNat_setWidth]
    omega
  | ret m => exact (stack_getD_le hstack _).trans (by decide)
  | ldVxK x =>
    rw [nextPC]
    split
    · exact hpc.trans (by decide)
    · exact h2
  | _ => exact h2

/-! ### The invariant along a step -/

/-- A record of one of R251's causes with a value of at most 0xFFFF is legal (R36). -/
theorem FaultRecord.legal_of_cause (cause : FaultCause) (pc : Word) {info : Nat} (h : info ≤ 0xFFFF) :
    FaultRecord.legal { valid := true, cause := cause.code, pc := pc, info := BitVec.ofNat 17 info } := by
  refine ⟨fun hv => (Bool.noConfusion hv), fun _ => ⟨cause.code_range.1, cause.code_range.2, ?_⟩⟩
  rw [BitVec.toNat_ofNat]
  exact (Nat.mod_le _ _).trans h

/-- Recording a fault at the instruction that took it keeps the invariant. -/
theorem State.Inv.recordFault {s : State} (hs : s.Inv) (cause : FaultCause) {info : Nat} (h : info ≤ 0xFFFF) :
    (s.recordFault s.pc cause (BitVec.ofNat 17 info)).Inv :=
  { hs with
    fault_legal := FaultRecord.legal_of_cause cause s.pc h
    fault_pc := fun _ => rfl }

/-- Running the fetched instruction to its end, and the timers after it, keeps the invariant. -/
theorem State.Inv.of_exec_latch {i : Instr} {s u : State} {w : Word} (hs : s.Inv) (hready : s.ready)
    (hf : faultOf i (s.latch w) = none) (hu : exec i (s.latch w) = .next u) : u.timerPhase.Inv := by
  obtain ⟨hrun, hpc⟩ := hready
  have hlatch : (s.latch w).pc.toNat ≤ 4096 := by
    rw [State.latch_pc]
    bv_omega
  have hfault := fault_of_exec hf hu
  rw [State.latch_fault] at hfault
  exact
    { memory := show u.mem.wf = true from wf_of_exec hf hu hs.memory
      sp_le := show u.sp.toNat ≤ 16 from sp_le_of_exec hf hu hs.sp_le
      pc_le := by
        rw [State.timerPhase_pc, pc_of_exec_latch hf hu]
        exact nextPC_le hpc hs.stack_le i
      stack_le := show ∀ k : Fin 16, u.stack[k].toNat ≤ 4096 from stack_le_of_exec hf hu hlatch hs.stack_le
      fault_legal := show u.fault.legal from hfault ▸ hs.fault_legal
      fault_pc := fun hv => by
        rw [State.timerPhase_fault, hfault, hrun] at hv
        cases hv }

/-- Settles O22: by the four things a step can do. -/
theorem everyStepKeepsTheInvariant : Obligations.EveryStepKeepsTheInvariant := by
  intro s t hs h
  rcases step_cases h with ⟨-, rfl⟩ | ⟨-, -, rfl⟩ | ⟨-, cause, info, hf, rfl⟩ | ⟨hready, hf, u, hu, -, rfl⟩
  · exact hs
  · exact hs.recordFault .fetchRange (max_le (hs.pc_le.trans (by decide)) (by decide))
  · exact hs.recordFault cause (faultOf_info_le hf)
  · exact hs.of_exec_latch hready hf hu

end Sys2Proof.Machine
end

section
/-! SUPPORT. The writers of each piece of state and of the flag register, from the frames; reset, the stops of `CALL` and
`RET`, and the exported cells. -/

namespace Sys2Proof.Machine

/-! ### Writers (spec/10_state.md R25 to R31, R36, R41) -/

theorem mayWrite_i {i : Instr} {s : State} (h : mayWrite i s .i) :
    (∃ nnn, i = .ldI nnn) ∨ ∃ x, i = .addI x ∨ i = .ldF x := by
  cases i with
  | ldI nnn => exact .inl ⟨nnn, rfl⟩
  | addI x => exact .inr ⟨x, .inl rfl⟩
  | ldF x => exact .inr ⟨x, .inr rfl⟩
  | _ => simp [mayWrite] at h

theorem mayWrite_dt {i : Instr} {s : State} (h : mayWrite i s .dt) : ∃ x, i = .ldDTVx x := by
  cases i with
  | ldDTVx x => exact ⟨x, rfl⟩
  | _ => simp [mayWrite] at h

theorem mayWrite_st {i : Instr} {s : State} (h : mayWrite i s .st) : ∃ x, i = .ldSTVx x := by
  cases i with
  | ldSTVx x => exact ⟨x, rfl⟩
  | _ => simp [mayWrite] at h

theorem mayWrite_pixel {i : Instr} {s : State} {r : Fin 32} {c : Fin 64} (h : mayWrite i s (.pixel r c)) :
    (∃ m, i = .cls m) ∨ ∃ x y n, i = .drw x y n := by
  cases i with
  | cls m => exact .inl ⟨m, rfl⟩
  | drw x y n => exact .inr ⟨x, y, n, rfl⟩
  | _ => simp [mayWrite] at h

theorem not_mayWrite_loadErr (i : Instr) (s : State) : ¬ mayWrite i s .loadErr := by
  cases i <;> simp [mayWrite]

theorem not_mayWrite_keys (i : Instr) (s : State) : ¬ mayWrite i s .keys := by
  cases i <;> simp [mayWrite]

theorem not_mayWrite_opcode (i : Instr) (s : State) : ¬ mayWrite i s .opcode := by
  cases i <;> simp [mayWrite]

/-- Buffers with the same pixels are equal. -/
theorem Video.ext_pixel {vid vid' : Video} (h : ∀ r c, vid.pixel r c = vid'.pixel r c) : vid = vid' :=
  Vector.ext fun r hr => Vector.ext fun c hc => h ⟨r, hr⟩ ⟨c, hc⟩

/-- Settles O20: each piece that is changed is one the rule of the instruction names. -/
theorem eachPieceOfStateHasItsWriters : Obligations.EachPieceOfStateHasItsWriters := by
  intro i s t h
  refine ⟨fun hne => ?_, fun hne => ?_, fun hne => ?_, fun hne => ?_, fun hne => ?_, fun hne => ?_,
    fun hne hf => hne (fault_of_exec hf h), exec_same h (not_mayWrite_loadErr i s) nofun nofun,
    exec_same h (not_mayWrite_keys i s) nofun nofun, exec_same h (not_mayWrite_opcode i s) nofun nofun⟩
  · by_contra hno
    exact hne (Vector.ext fun k hk =>
      exec_same h (p := .stack ⟨k, hk⟩) (fun hW => hno (mayWrite_stack hW)) nofun nofun)
  · by_contra hno
    exact hne (exec_same h (p := .sp) (fun hW => hno (mayWrite_sp hW)) nofun nofun)
  · by_contra hno
    exact hne (exec_same h (p := .i) (fun hW => hno (mayWrite_i hW)) nofun nofun)
  · by_contra hno
    exact hne (exec_same h (p := .dt) (fun hW => hno (mayWrite_dt hW)) nofun nofun)
  · by_contra hno
    exact hne (exec_same h (p := .st) (fun hW => hno (mayWrite_st hW)) nofun nofun)
  · by_contra hno
    exact hne (Video.ext_pixel fun r c =>
      exec_same h (p := .pixel r c) (fun hW => hno (mayWrite_pixel hW)) nofun nofun)

/-! ### The flag register (spec/10_state.md R22) -/

theorem getV_VF_setResultAndFlag (s : State) (x : Reg) (r f : Byte) : (s.setResultAndFlag x r f).getV VF = f := by
  rw [State.getV_setResultAndFlag, if_pos rfl]

theorem flagByte_cases (c : Bool) : flagByte c = 0 ∨ flagByte c = 1 := by
  cases c
  · exact .inl rfl
  · exact .inr rfl

theorem flagByte_eq_one_iff (c : Bool) : flagByte c = 1 ↔ c = true := by
  cases c <;> decide

theorem flagByte_decide (p : Prop) [Decidable p] : flagByte (decide p) = if p then 1 else 0 := by
  simp [flagByte]

/-- The bit a right shift puts out, as a number. -/
theorem toNat_lowBitFlag (a : Byte) : (lowBitFlag a).toNat = a.toNat % 2 := by
  revert a
  decide

/-- The bit a left shift puts out, as a number. -/
theorem toNat_highBitFlag (a : Byte) : (highBitFlag a).toNat = a.toNat / 128 := by
  revert a
  decide

/-- Drawing a sprite reports a collision exactly if some pixel goes from on to off (spec/44_graphics.md R212). -/
theorem drawSprite_hit_iff (s : State) (x y : Reg) (n : Fin 16) :
    (s.drawSprite x y n).hit = true ↔
      ∃ r c, s.vid.pixel r c = true ∧ (s.drawSprite x y n).vid.pixel r c = false := by
  have hlen : 0 + (s.mem.readBytes (s.effAddr 0) n.val).length ≤ 32 := by
    rw [Memory.length_readBytes]
    omega
  simp only [State.drawSprite, Drawing.rows_hit _ _ _ _ _ hlen, Drawing.rows_pixel _ _ _ _ _ hlen, List.mem_range]
  constructor
  · rintro (hd | ⟨k, hk, col, hcol, hbit, hon⟩)
    · cases hd
    · refine ⟨_, _, hon, ?_⟩
      rw [hon, Bool.true_xor, Bool.not_eq_false', decide_eq_true_eq]
      exact ⟨k, hk, rfl, col, hcol, hbit, rfl⟩
  · rintro ⟨r, c, hon, hoff⟩
    rw [hon, Bool.true_xor, Bool.not_eq_false', decide_eq_true_eq] at hoff
    obtain ⟨k, hk, rfl, col, hcol, hbit, rfl⟩ := hoff
    exact .inr ⟨k, hk, col, hcol, hbit, hon⟩

/-- What a draw leaves in `VF`. -/
theorem getV_VF_of_drw {x y : Reg} {n : Fin 16} {s t : State} (hf : faultOf (.drw x y n) s = none)
    (h : exec (.drw x y n) s = .next t) :
    (t.getV VF = 0 ∨ t.getV VF = 1) ∧ (t.getV VF = 1 ↔ ∃ r c, s.pixel r c = true ∧ t.pixel r c = false) := by
  rw [exec_drw_of_no_fault hf] at h
  cases h
  rw [State.getV_setV_self]
  exact ⟨flagByte_cases _, (flagByte_eq_one_iff _).trans (drawSprite_hit_iff s x y n)⟩

/-- Settles O18: the six flag writers by their values, every other instruction by its frame. -/
theorem flagRegisterWriters : Obligations.FlagRegisterWriters := by
  intro i s t h
  have hkeep : ¬ mayWrite i s (.v VF) → t.getV VF = s.getV VF := fun hW => exec_same h hW nofun nofun
  cases i with
  | addReg x y | sub x y | subn x y =>
    cases h
    exact (getV_VF_setResultAndFlag s x _ _).trans (flagByte_decide _)
  | shr x y =>
    cases h
    exact (congrArg BitVec.toNat (getV_VF_setResultAndFlag s x _ _)).trans (toNat_lowBitFlag _)
  | shl x y =>
    cases h
    exact (congrArg BitVec.toNat (getV_VF_setResultAndFlag s x _ _)).trans (toNat_highBitFlag _)
  | drw x y n =>
    refine ⟨fun hf => ?_, fun hf => getV_VF_of_drw hf h⟩
    obtain ⟨f, hf⟩ := Option.ne_none_iff_exists'.mp hf
    obtain ⟨-, -, hframe⟩ := faultTaken_of_faultOf hf h
    exact hframe (.v VF) (by simp)
  | ldImm x | addImm x | ldReg x | orReg x | andReg x | xorReg x | rnd x | ldVxDT x =>
    exact fun hx => hkeep (by simpa [mayWrite] using hx.symm)
  | ldVxK x =>
    intro hx
    refine hkeep ?_
    rw [mayWrite]
    split
    · nofun
    · simpa using hx.symm
  | loadRegs x =>
    intro hx
    refine hkeep ?_
    rintro ⟨k, hk, hVF⟩
    cases hVF
    exact hx (Fin.ext (Nat.le_antisymm (Nat.le_of_lt_succ x.isLt) hk))
  | _ => exact hkeep (by simp [mayWrite])

/-! ### `CALL` and `RET` with `SP` above 16 -/

/-- Settles O25: neither the fault of the table nor an entry of the stack is there for such an `SP`. -/
theorem stackPointerAboveSixteenStops : Obligations.StackPointerAboveSixteenStops := by
  intro s nnn m hsp
  constructor
  · rw [exec_call, execCall, if_neg (by intro h; simp [h] at hsp), dif_neg (by omega)]
  · rw [exec_ret, execRet, if_neg (by intro h; simp [h] at hsp), dif_neg (by omega)]

/-! ### Reset and the exported cells -/

theorem peek_resetWith_font (font : Config.FontData) (k : Fin 80) :
    (State.resetWith font).peek (0x050 + k.val) = font[k] := by
  have hlen : font.toList.length = 80 := Vector.length_toList
  rw [State.peek, State.resetWith_mem,
    Memory.read_writeBytes_inside rfl (by rw [hlen]; decide) (show k.val < font.toList.length by omega)]
  simp

theorem peek_resetWith_outside (font : Config.FontData) {a : Nat} (ha : a < 0x050 ∨ 0x0A0 ≤ a) :
    (State.resetWith font).peek a = 0 := by
  have hlen : font.toList.length = 80 := Vector.length_toList
  rw [State.peek, State.resetWith_mem, Memory.read_writeBytes_outside _ _ _ _ (by rw [hlen]; omega)]
  exact if_neg (show ¬ (0x050 ≤ a ∧ a < 0x050 + 80) by omega)

/-- Settles O27: memory is the one part of the reset state that depends on the font. -/
theorem resetLeavesTheseValues : Obligations.ResetLeavesTheseValues := by
  intro font s z hz
  have hregs (x : Reg) : State.reset.getV x = 0 := by simp [State.getV, State.reset]
  have hstack (k : Fin 16) : State.reset.stack[k] = 0 := by simp [State.reset]
  have hkeys (h : HostOp.reset.apply font s = .next z) : z.keys = s.keys := by
    cases h
    rfl
  have hz' : z = State.resetWith font ∨ z = s.resetOperation font :=
    hz.imp_right fun h => (Host.Outcome.next.inj h).symm
  rcases hz' with rfl | rfl <;>
    exact ⟨hregs, hstack, rfl, rfl, rfl, rfl, rfl, Video.pixel_dark, rfl, rfl, peek_resetWith_font font,
      fun a => peek_resetWith_outside font, hkeys⟩

/-- Settles O30: `r * 64 + c` has quotient `r` and remainder `c` by 64. -/
theorem videoCellsExportThePixels : Obligations.VideoCellsExportThePixels := by
  intro s r c
  have hr : Fin.ofNat 32 ((r.val * 64 + c.val) / 64) = r := Fin.ext (by rw [Fin.val_ofNat]; omega)
  have hc : Fin.ofNat 64 ((r.val * 64 + c.val) % 64) = c := Fin.ext (by rw [Fin.val_ofNat]; omega)
  refine ⟨by rw [State.videoCell, hr, hc], fun k => ?_⟩
  rw [State.videoCell]
  exact ite_eq_or_eq _ _ _

end Sys2Proof.Machine
end

section
/-! SUPPORT. Memory: who stores, what a fetch reads of the bytes stored, the loader port, and the default font. -/

namespace Sys2Proof.Machine

/-! ### Stores (spec/20_memory.md R60, R62, R78) -/

/-- An instruction that does not fault and may write a byte of memory is one of the two stores, and the byte lies in the
range that instruction checked. -/
theorem mayWrite_mem {i : Instr} {s : State} {a : Nat} (hf : faultOf i s = none) (h : mayWrite i s (.mem a)) :
    (∃ x, i = .ldB x ∨ i = .dumpRegs x) ∧ s.i.toNat ≤ a ∧ a ≤ 4095 := by
  cases i with
  | ldB x =>
    obtain ⟨hrange, -⟩ := exec_ldB_of_no_fault hf
    obtain ⟨k, hk, ⟨⟩⟩ := h
    rw [State.effAddr_eq]
    exact ⟨⟨x, .inl rfl⟩, by omega⟩
  | dumpRegs x =>
    obtain ⟨hrange, -⟩ := exec_dumpRegs_of_no_fault hf
    obtain ⟨k, hk, ⟨⟩⟩ := h
    rw [State.effAddr_eq]
    exact ⟨⟨x, .inr rfl⟩, by omega⟩
  | _ => simp [mayWrite] at h

/-- Settles O19: an instruction that faults leaves memory alone, and one that does not writes only where its rule lets it. -/
theorem onlyTwoInstructionsStore : Obligations.OnlyTwoInstructionsStore := by
  intro i s t a h hne
  cases hf : faultOf i s with
  | none =>
    by_contra hno
    exact hne (exec_frame hf h (.mem a) fun hW => hno (mayWrite_mem hf hW))
  | some f =>
    obtain ⟨-, -, hframe⟩ := faultTaken_of_faultOf hf h
    exact absurd (hframe (.mem a) (by simp)) hne

/-- The bytes of a register dump that fits, in a canonical memory. -/
theorem peek_of_dumpRegs {x : Reg} {s t : State} (hm : s.mem.wf = true) (hfit : s.i.toNat + x.val ≤ 4095)
    (h : exec (.dumpRegs x) s = .next t) (k : Reg) (hk : k.val ≤ x.val) : t.peek (s.i.toNat + k.val) = s.getV k := by
  have hf : faultOf (.dumpRegs x) s = none := if_neg (by omega)
  obtain ⟨-, hexec⟩ := exec_dumpRegs_of_no_fault hf
  rw [hexec] at h
  cases h
  have hlen := State.length_firstRegs s x
  rw [State.peek_writeBytes s hm (by omega) (by omega), State.getElem_firstRegs]

/-- Settles O16: the fetch reads the bytes of two neighbouring registers of the dump. -/
theorem storedBytesAreFetched : Obligations.StoredBytesAreFetched := by
  intro x k s t hm _ hfit hk h hpc
  have hhigh := peek_of_dumpRegs hm hfit h k (by omega)
  have hlow := peek_of_dumpRegs hm hfit h ⟨k.val + 1, by omega⟩ hk
  rw [State.fetchWord_eq, if_pos (by omega), State.nextWord, hpc, Nat.add_assoc, hhigh, hlow]

/-! ### The loader port (spec/20_memory.md R74 to R76) -/

theorem State.load_of_le (s : State) {bytes : List Byte} (h : bytes.length ≤ 3584) :
    s.load bytes = { s.setMem (s.mem.writeBytes 0x200 bytes) with loadErr := false } := if_pos h

theorem State.load_of_gt (s : State) {bytes : List Byte} (h : 3584 < bytes.length) :
    s.load bytes = { s with loadErr := true } := if_neg (Nat.not_le.mpr h)

theorem ChangesOnly.setLoadErr (s : State) (b : Bool) : ChangesOnly (fun p => p = .loadErr) s { s with loadErr := b } := by
  intro p hp
  cases p with
  | loadErr => exact absurd rfl hp
  | _ => rfl

/-- Settles O28: the load is a write of the image to memory followed by one of `LOAD_ERR`. -/
theorem loadCopiesTheImage : Obligations.LoadCopiesTheImage := by
  intro font s bytes hm hlen
  refine ⟨_, congrArg Host.Outcome.next (s.load_of_le hlen), rfl, fun k hk => ?_, ?_⟩
  · exact s.peek_writeBytes hm (a := 0x200) (by omega) hk
  · have himage := (ChangesOnly.writeBytes s 0x200 bytes).mono
      (W' := fun p => p = .loadErr ∨ ∃ k : Nat, k < bytes.length ∧ p = .mem (0x200 + k)) fun _ => Or.inr
    exact himage.trans ((ChangesOnly.setLoadErr _ false).mono fun _ => Or.inl)

/-- Settles O29: the rejected load writes `LOAD_ERR`, on which no fetch depends. -/
theorem oversizeLoadIsRejected : Obligations.OversizeLoadIsRejected := by
  intro font s bytes hlen
  exact ⟨_, congrArg Host.Outcome.next (s.load_of_gt hlen), rfl, ChangesOnly.setLoadErr s true,
    fun hready => ⟨hready, rfl⟩⟩

/-! ### The default font (spec/20_memory.md R63, R64) -/

/-- Writing what is already read there leaves the memory in which nothing is listed as it is. -/
theorem Memory.writeBytes_nil_of_resetByte {a : Nat} {bs : List Byte}
    (h : ∀ (k : Nat) (hk : k < bs.length), bs[k] = resetByte (a + k)) : Memory.writeBytes [] a bs = [] := by
  induction bs generalizing a with
  | nil => rfl
  | cons b bs ih =>
    have hb : b = resetByte a := h 0 (Nat.zero_lt_succ _)
    rw [Memory.writeBytes, Memory.write, Memory.put, if_pos hb]
    refine ih fun k hk => ?_
    rw [Nat.add_assoc, Nat.add_comm 1]
    exact h (k + 1) (Nat.succ_lt_succ hk)

theorem resetByte_font (k : Nat) (hk : k < fontData.length) : fontData[k] = resetByte (0x050 + k) := by
  have hlen : fontData.length = 80 := rfl
  have hin : 0x050 ≤ 0x050 + k ∧ 0x050 + k < 0x050 + 80 := by omega
  rw [resetByte, if_pos hin, Nat.add_sub_cancel_left, List.getD_eq_getElem _ _ hk]

/-- Settles O58: every byte of the default font is what its address reads as unlisted, so writing the font lists nothing. -/
theorem resetHasTheDefaultFont : Obligations.ResetHasTheDefaultFont := by
  refine ⟨?_, rfl, ?_⟩
  · have hmem : Memory.writeBytes [] 0x050 fontData = [] := Memory.writeBytes_nil_of_resetByte resetByte_font
    exact congrArg (fun m => { State.reset with mem := m }) hmem
  · decide

end Sys2Proof.Machine
end

section
/-! SUPPORT. The decoder and the encoder are inverse to each other on well-formed instructions, and the opcode map, the table of
unmapped words and the rejected sub-key of R95 describe the same decoder (spec/30_encoding.md R90 to R104). -/

namespace Sys2Proof.Machine

/-! ### The decoder group by group (spec/30_encoding.md R94) -/

theorem decodeWith_of_group0 (k : Config.SubKey) {w : Word} (hg : groupOf w = 0x0) : decodeWith k w = decodeGroup0 k w := by
  simp [decodeWith, hg]

theorem decodeWith_of_group8 (k : Config.SubKey) {w : Word} (hg : groupOf w = 0x8) : decodeWith k w = decodeGroup8 w := by
  simp [decodeWith, hg]

theorem decodeWith_of_groupE (k : Config.SubKey) {w : Word} (hg : groupOf w = 0xE) : decodeWith k w = decodeGroupE k w := by
  simp [decodeWith, hg]

theorem decodeWith_of_groupF (k : Config.SubKey) {w : Word} (hg : groupOf w = 0xF) : decodeWith k w = decodeGroupF w := by
  simp [decodeWith, hg]

/-! ### A word and the fields an instruction keeps of it -/

theorem nOf_eq_low_kkOf (w : Word) : nOf w = (kkOf w).extractLsb' 0 4 := by
  ext i hi
  simp only [nOf, kkOf]
  grind

theorem nibbles_of_nOf {w : Word} {a d : Nibble} (hg : groupOf w = a) (hn : nOf w = d) :
    nibbles a (xOf w) (yOf w) d = w := by
  rw [← hg, ← hn, nibbles_fields]

theorem nibbles_of_kkOf {w : Word} {a c d : Nibble} (hg : groupOf w = a) (hk : kkOf w = c ++ d) :
    nibbles a (xOf w) c d = w := by
  obtain ⟨hy, hn⟩ := digits_inj ((kkOf_eq_digits w).symm.trans hk)
  rw [← hg, ← hy, ← hn, nibbles_fields]

theorem addr_of_groupOf {w : Word} {a : Nibble} (hg : groupOf w = a) : a ++ nnnOf w = w := by
  rw [← hg, addr_fields]

theorem imm_of_groupOf {w : Word} {a : Nibble} (hg : groupOf w = a) : a ++ xOf w ++ kkOf w = w := by
  rw [← hg, imm_fields]

/-! ### What the decoder reads is well formed and encodes back -/

/-- `i` is a well-formed instruction whose word is `w`. -/
def Spells (w : Word) (i : Instr) : Prop := i.wellFormed = true ∧ encode i = w

theorem spells_nop {w : Word} (h : unmappedWord w = true) : Spells w (.nop w) := ⟨h, rfl⟩

theorem decodeGroup0_spells {w : Word} (hg : groupOf w = 0x0) : Spells w (decodeGroup0 .lowByte w) := by
  rw [decodeGroup0]
  split
  case h_1 hk | h_2 hk => exact ⟨rfl, nibbles_of_kkOf hg hk⟩
  case h_3 => exact spells_nop (by simp_all [unmappedWord])

theorem decodeGroup8_spells {w : Word} (hg : groupOf w = 0x8) : Spells w (decodeGroup8 w) := by
  rw [decodeGroup8]
  split
  case h_10 =>
    have := digit_cases (nOf w)
    exact spells_nop (by simp_all [unmappedWord])
  all_goals exact ⟨rfl, nibbles_of_nOf hg ‹_›⟩

theorem decodeGroupE_spells {w : Word} (hg : groupOf w = 0xE) : Spells w (decodeGroupE .lowByte w) := by
  rw [decodeGroupE]
  split
  case h_1 hk | h_2 hk => exact ⟨rfl, nibbles_of_kkOf hg hk⟩
  case h_3 => exact spells_nop (by simp_all [unmappedWord])

theorem decodeGroupF_spells {w : Word} (hg : groupOf w = 0xF) : Spells w (decodeGroupF w) := by
  rw [decodeGroupF]
  split
  case h_10 => exact spells_nop (by simp_all [unmappedWord])
  all_goals exact ⟨rfl, nibbles_of_kkOf hg ‹_›⟩

theorem decode_spells (w : Word) : Spells w (decode w) := by
  rw [decode, decodeWith]
  split
  case h_1 hg => exact decodeGroup0_spells hg
  case h_9 hg => exact decodeGroup8_spells hg
  case h_15 hg => exact decodeGroupE_spells hg
  case h_16 =>
    have := digit_cases (groupOf w)
    exact decodeGroupF_spells (by simp_all)
  case h_2 hg | h_3 hg | h_11 hg | h_12 hg => exact ⟨rfl, addr_of_groupOf hg⟩
  case h_4 hg | h_5 hg | h_7 hg | h_8 hg | h_13 hg => exact ⟨rfl, imm_of_groupOf hg⟩
  case h_6 hg | h_10 hg | h_14 hg => exact ⟨rfl, nibbles_of_nOf hg rfl⟩

theorem decode_wellFormed (w : Word) : (decode w).wellFormed = true := (decode_spells w).1

theorem encode_decode (w : Word) : encode (decode w) = w := (decode_spells w).2

/-! ### What the encoder writes decodes back -/

theorem decode_nop_of_unmapped {w : Word} (h : unmappedWord w = true) : decode w = .nop w := by
  rw [unmappedWord] at h
  split at h
  case h_1 hg =>
    rw [decode, decodeWith_of_group0 _ hg]
    simp_all [decodeGroup0]
  case h_2 hg =>
    rw [decode, decodeWith_of_group8 _ hg, decodeGroup8]
    split
    case h_10 => rfl
    all_goals simp_all
  case h_3 hg =>
    rw [decode, decodeWith_of_groupE _ hg]
    simp_all [decodeGroupE]
  case h_4 hg =>
    rw [decode, decodeWith_of_groupF _ hg]
    simp_all [decodeGroupF]
  case h_5 => cases h

theorem decode_encode {i : Instr} (h : i.wellFormed = true) : decode (encode i) = i := by
  cases i with
  | nop w => exact decode_nop_of_unmapped h
  | cls m | ret m =>
    refine (decodeWith_of_group0 _ (groupOf_nibbles ..)).trans ?_
    simp [decodeGroup0]
  | ldReg x y | orReg x y | andReg x y | xorReg x y | addReg x y | sub x y | shr x y | subn x y | shl x y =>
    refine (decodeWith_of_group8 _ (groupOf_nibbles ..)).trans ?_
    simp [decodeGroup8]
  | skp x | sknp x =>
    refine (decodeWith_of_groupE _ (groupOf_nibbles ..)).trans ?_
    simp [decodeGroupE]
  | ldVxDT x | ldVxK x | ldDTVx x | ldSTVx x | addI x | ldF x | ldB x | dumpRegs x | loadRegs x =>
    refine (decodeWith_of_groupF _ (groupOf_nibbles ..)).trans ?_
    simp [decodeGroupF]
  | jp | call | ldI | jpV0 | seImm | sneImm | ldImm | addImm | rnd | seReg | sneReg | drw =>
    simp [encode, decode, decodeWith]

/-- Settles O1: each constructor's word leads the decoder to the constructor, group by group. -/
theorem decodeOfEncodeIsTheInstruction : Obligations.DecodeOfEncodeIsTheInstruction := fun _ => decode_encode

/-- Settles O2: the decoder's inversion, and for uniqueness that decoding undoes encoding. -/
theorem encodeOfDecodeIsTheWord : Obligations.EncodeOfDecodeIsTheWord := by
  refine fun w => ⟨decode_wellFormed w, encode_decode w, ?_⟩
  rintro i hi rfl
  exact (decode_encode hi).symm

/-! ### The unmapped words (spec/30_encoding.md R98) -/

theorem decode_eq_nop_iff {w : Word} : decode w = .nop w ↔ unmappedWord w = true := by
  refine ⟨fun h => ?_, decode_nop_of_unmapped⟩
  have hwf := decode_wellFormed w
  rwa [h] at hwf

theorem unmappedWord_iff (w : Word) : unmappedWord w = true ↔
    (groupOf w = 0x0#4 ∧ kkOf w ≠ 0xE0#8 ∧ kkOf w ≠ 0xEE#8) ∨
    (groupOf w = 0x8#4 ∧ nOf w ∈ [0x8#4, 0x9#4, 0xA#4, 0xB#4, 0xC#4, 0xD#4, 0xF#4]) ∨
    (groupOf w = 0xE#4 ∧ kkOf w ≠ 0x9E#8 ∧ kkOf w ≠ 0xA1#8) ∨
    (groupOf w = 0xF#4 ∧
      kkOf w ∉ [0x07#8, 0x0A#8, 0x15#8, 0x18#8, 0x1E#8, 0x29#8, 0x33#8, 0x55#8, 0x65#8]) := by
  rw [unmappedWord]
  split <;> simp_all

/-- Settles O4: the words that decode to the no-operation are those of `unmappedWord`, whose groups are the table's. -/
theorem unmappedWordsAreThoseOfTheTable : Obligations.UnmappedWordsAreThoseOfTheTable :=
  fun w => decode_eq_nop_iff.trans (unmappedWord_iff w)

/-! ### The opcode map (spec/30_encoding.md R96) -/

theorem groupOf_and (v w : Word) : groupOf (v &&& w) = groupOf v &&& groupOf w := by
  ext i hi
  simp [groupOf]

theorem nOf_and (v w : Word) : nOf (v &&& w) = nOf v &&& nOf w := by
  ext i hi
  simp [nOf]

theorem kkOf_and (v w : Word) : kkOf (v &&& w) = kkOf v &&& kkOf w := by
  ext i hi
  simp [kkOf]

/-- A mask of the opcode map keeps every field that decides whether a word of the row's group is unmapped, and no row's own
match is unmapped. -/
theorem opcodeMap_masks : ∀ r ∈ opcodeMap,
    groupOf r.mask = BitVec.allOnes 4 ∧ unmappedWord r.bits = false ∧
      (kkOf r.mask = BitVec.allOnes 8 ∨ (nOf r.mask = BitVec.allOnes 4 ∧ groupOf r.bits = 0x8) ∨
        groupOf r.bits ∉ [0x0, 0x8, 0xE, 0xF]) := by decide

theorem opcodeMap_disjoint : ∀ r ∈ opcodeMap, ∀ q ∈ opcodeMap, r.bits &&& q.mask = q.bits &&& r.mask → r = q := by decide

/-- An instruction other than the no-operation has its row in the map. -/
theorem row_mem_opcodeMap {i : Instr} (h : ∀ w, i ≠ .nop w) : i.row ∈ opcodeMap := by
  cases i with
  | nop w => exact absurd rfl (h w)
  | _ => simp [Instr.row, opcodeMap]

/-- Whether a word is unmapped depends on its group and its low byte alone. -/
theorem unmappedWord_congr {v w : Word} (hg : groupOf v = groupOf w) (hk : kkOf v = kkOf w) :
    unmappedWord v = unmappedWord w := by
  have hn : nOf v = nOf w := by rw [nOf_eq_low_kkOf, nOf_eq_low_kkOf, hk]
  simp only [unmappedWord, hg, hk, hn]

/-- In group 8, whether a word is unmapped depends on its low nibble alone. -/
theorem unmappedWord_congr_of_group8 {v w : Word} (hv : groupOf v = 0x8) (hw : groupOf w = 0x8) (hn : nOf v = nOf w) :
    unmappedWord v = unmappedWord w := by
  simp [unmappedWord, hv, hw, hn]

/-- Outside the groups with a sub-key every word is an instruction. -/
theorem unmappedWord_of_group {w : Word} (hg : groupOf w ∉ [0x0, 0x8, 0xE, 0xF]) : unmappedWord w = false := by
  rw [unmappedWord]
  split <;> simp_all

/-- A word that meets a row is no unmapped word: it agrees with the row's match in the fields that decide. -/
theorem unmappedWord_of_meets {w : Word} {r : OpcodeRow} (hr : r ∈ opcodeMap) (h : w &&& r.mask = r.bits) :
    unmappedWord w = false := by
  obtain ⟨hgroup, hbits, hm⟩ := opcodeMap_masks r hr
  have hg : groupOf w = groupOf r.bits := by rw [← h, groupOf_and, hgroup, BitVec.and_allOnes]
  obtain hkk | ⟨hn, h8⟩ | hmapped := hm
  · have hk : kkOf w = kkOf r.bits := by rw [← h, kkOf_and, hkk, BitVec.and_allOnes]
    exact (unmappedWord_congr hg hk).trans hbits
  · have hlow : nOf w = nOf r.bits := by rw [← h, nOf_and, hn, BitVec.and_allOnes]
    exact (unmappedWord_congr_of_group8 (hg.trans h8) h8 hlow).trans hbits
  · exact unmappedWord_of_group (hg ▸ hmapped)

/-- Two rows a word meets are one row: their matches agree under both masks. -/
theorem row_eq_of_meets {w : Word} {r q : OpcodeRow} (hr : r ∈ opcodeMap) (hq : q ∈ opcodeMap)
    (hwr : w &&& r.mask = r.bits) (hwq : w &&& q.mask = q.bits) : r = q := by
  refine opcodeMap_disjoint r hr q hq ?_
  rw [← hwr, ← hwq, BitVec.and_assoc, BitVec.and_assoc, BitVec.and_comm r.mask]

open Laws.EncodedInRow in
/-- The word of every instruction lies in the instruction's row. -/
theorem encode_meets_row : ∀ i : Instr, encode i &&& i.row.mask = i.row.bits :=
  Instr.rec (motive := Statement) cls ret jp call seImm sneImm seReg ldImm addImm ldReg orReg andReg xorReg addReg sub shr
    subn shl sneReg ldI jpV0 rnd drw skp sknp ldVxDT ldVxK ldDTVx ldSTVx addI ldF ldB dumpRegs loadRegs nop

theorem decode_meets_row (w : Word) : w &&& (decode w).row.mask = (decode w).row.bits := by
  have h := encode_meets_row (decode w)
  rwa [encode_decode] at h

/-- A decoded no-operation carries the word it was decoded from. -/
theorem eq_of_decode_eq_nop {v w : Word} (h : decode w = .nop v) : v = w := by
  have henc := encode_decode w
  rwa [h] at henc

theorem decode_row_mem {w : Word} (h : unmappedWord w = false) : (decode w).row ∈ opcodeMap := by
  refine row_mem_opcodeMap fun v hv => ?_
  rw [eq_of_decode_eq_nop hv, decode_eq_nop_iff, h] at hv
  cases hv

theorem meets_iff_decode_row {w : Word} {r : OpcodeRow} (hr : r ∈ opcodeMap) :
    w &&& r.mask = r.bits ↔ (decode w).row = r := by
  constructor
  · intro h
    exact row_eq_of_meets (decode_row_mem (unmappedWord_of_meets hr h)) hr (decode_meets_row w) h
  · rintro rfl
    exact decode_meets_row w

theorem meets_no_row_iff {w : Word} : (∀ r ∈ opcodeMap, w &&& r.mask ≠ r.bits) ↔ decode w = .nop w := by
  rw [decode_eq_nop_iff]
  constructor
  · intro h
    by_contra hmapped
    exact h _ (decode_row_mem (Bool.eq_false_iff.mpr hmapped)) (decode_meets_row w)
  · intro h r hr hmeets
    rw [unmappedWord_of_meets hr hmeets] at h
    cases h

/-- Settles O3: a mapped word meets its decoded row, meets no other by disjointness, and unmapped words meet none. -/
theorem opcodeMapSelectsTheInstruction : Obligations.OpcodeMapSelectsTheInstruction :=
  ⟨rfl, fun _ => ⟨fun _ => meets_iff_decode_row, fun _ hr _ hq => row_eq_of_meets hr hq, meets_no_row_iff⟩⟩

/-! ### The rejected sub-key (spec/30_encoding.md R95, R99) -/

/-- The sub-key of R95 matters in groups 0 and E alone. -/
theorem decodeWith_eq_decode_of_group (k : Config.SubKey) {w : Word} (h0 : groupOf w ≠ 0x0) (hE : groupOf w ≠ 0xE) :
    decodeWith k w = decode w := by
  rw [decode, decodeWith, decodeWith]
  split
  case h_1 hg => exact absurd hg h0
  case h_15 hg => exact absurd hg hE
  all_goals rfl

theorem decodeGroup0_lowNibble_ne_iff (w : Word) :
    decodeGroup0 .lowNibble w ≠ decodeGroup0 .lowByte w ↔
      (nOf w = 0x0 ∧ kkOf w ≠ 0xE0) ∨ (nOf w = 0xE ∧ kkOf w ≠ 0xEE) := by
  by_cases h0 : kkOf w = 0xE0
  · have hn : nOf w = 0x0 := by rw [nOf_eq_low_kkOf, h0]; rfl
    simp [decodeGroup0, h0, hn]
  by_cases hE : kkOf w = 0xEE
  · have hn : nOf w = 0xE := by rw [nOf_eq_low_kkOf, hE]; rfl
    simp [decodeGroup0, hE, hn]
  have hbyte : decodeGroup0 .lowByte w = .nop w := by simp_all [decodeGroup0]
  rw [hbyte, decodeGroup0]
  split <;> simp_all

theorem decodeGroupE_lowNibble_ne_iff (w : Word) :
    decodeGroupE .lowNibble w ≠ decodeGroupE .lowByte w ↔
      (nOf w = 0x1 ∧ kkOf w ≠ 0xA1) ∨ (nOf w = 0xE ∧ kkOf w ≠ 0x9E) := by
  by_cases h1 : kkOf w = 0xA1
  · have hn : nOf w = 0x1 := by rw [nOf_eq_low_kkOf, h1]; rfl
    simp [decodeGroupE, h1, hn]
  by_cases hE : kkOf w = 0x9E
  · have hn : nOf w = 0xE := by rw [nOf_eq_low_kkOf, hE]; rfl
    simp [decodeGroupE, hE, hn]
  have hbyte : decodeGroupE .lowByte w = .nop w := by simp_all [decodeGroupE]
  rw [hbyte, decodeGroupE]
  split <;> simp_all

theorem decodeWith_lowNibble_ne_iff (w : Word) : decodeWith .lowNibble w ≠ decode w ↔
    (groupOf w = 0x0#4 ∧ ((nOf w = 0x0#4 ∧ kkOf w ≠ 0xE0#8) ∨ (nOf w = 0xE#4 ∧ kkOf w ≠ 0xEE#8))) ∨
    (groupOf w = 0xE#4 ∧ ((nOf w = 0x1#4 ∧ kkOf w ≠ 0xA1#8) ∨ (nOf w = 0xE#4 ∧ kkOf w ≠ 0x9E#8))) := by
  by_cases h0 : groupOf w = 0x0#4
  · rw [decode, decodeWith_of_group0 _ h0, decodeWith_of_group0 _ h0, decodeGroup0_lowNibble_ne_iff]
    simp [h0]
  by_cases hE : groupOf w = 0xE#4
  · rw [decode, decodeWith_of_groupE _ hE, decodeWith_of_groupE _ hE, decodeGroupE_lowNibble_ne_iff]
    simp [hE]
  simp [decodeWith_eq_decode_of_group _ h0 hE, h0, hE]

/-- Settles O7: only groups 0 and E see the sub-key, and there the two sub-keys differ where the low nibble selects an
instruction whose low byte the word does not have. -/
theorem lowNibbleAlternativeDiffersExactlyHere : Obligations.LowNibbleAlternativeDiffersExactlyHere :=
  decodeWith_lowNibble_ne_iff

/-! ### Bytes (spec/30_encoding.md R90, spec/20_memory.md R66) -/

theorem packWord_eq_ofNat (hi lo : Byte) : packWord hi lo = BitVec.ofNat 16 (hi.toNat * 256 + lo.toNat) := by
  have hpack : (packWord hi lo).toNat = hi.toNat * 256 + lo.toNat := by
    rw [packWord, BitVec.toNat_append, ← Nat.shiftLeft_add_eq_or_of_lt lo.isLt, Nat.shiftLeft_eq]
  rw [← hpack, BitVec.ofNat_toNat, BitVec.setWidth_eq]

/-- Settles O5: the byte decoder packs and decodes, and packing is `first * 256 + second`. -/
theorem twoBytesHighFirstAreOneInstruction : Obligations.TwoBytesHighFirstAreOneInstruction := by
  intro hi lo rest
  rw [decodeBytes, packWord_eq_ofNat]
  exact ⟨rfl, rfl, rfl⟩

/-- Settles O6: the words are closed and the decoder evaluates. -/
theorem writtenOutWordsDecode : Obligations.WrittenOutWordsDecode := by
  unfold Obligations.WrittenOutWordsDecode
  decide

end Sys2Proof.Machine
end

section
/-! SUPPORT. The cycle: the fetch, the timers, a cycle begun while a fault stands, a word placed for the next fetch, and the
no-operation of an unmapped word. -/

namespace Sys2Proof.Machine

/-! ### The timers (spec/40_cycle.md R125) -/

/-- The value instruction `i` leaves in `DT` where it does not fault (R28): the one it loads, or the one there. -/
def loadedDT (i : Instr) (s : State) : Byte :=
  match i with
  | .ldDTVx x => s.getV x
  | _ => s.dt

/-- The value instruction `i` leaves in `ST` where it does not fault (R29): the one it loads, or the one there. -/
def loadedST (i : Instr) (s : State) : Byte :=
  match i with
  | .ldSTVx x => s.getV x
  | _ => s.st

theorem dt_of_exec {i : Instr} {s t : State} (hf : faultOf i s = none) (h : exec i s = .next t) :
    t.dt = loadedDT i s := by
  unfold loadedDT
  split
  · cases h
    rfl
  next hload => exact exec_frame hf h .dt fun hW => (mayWrite_dt hW).elim hload

theorem st_of_exec {i : Instr} {s t : State} (hf : faultOf i s = none) (h : exec i s = .next t) :
    t.st = loadedST i s := by
  unfold loadedST
  split
  · cases h
    rfl
  next hload => exact exec_frame hf h .st fun hW => (mayWrite_st hW).elim hload

/-- Settles O13: of the four things a step can do only the run to the end of the instruction leaves no fault standing, and the
timer phase after it takes each timer from the value the instruction left there. -/
theorem timersGoDownOncePerCycle : Obligations.TimersGoDownOncePerCycle := by
  intro s t hrun h hok
  rcases step_cases h with ⟨hstands, -⟩ | ⟨-, -, rfl⟩ | ⟨-, cause, info, -, rfl⟩ | ⟨-, hf, u, hu, -, rfl⟩
  · exact absurd hrun (by simp [hstands])
  · cases hok
  · cases hok
  · have hdt := dt_of_exec hf hu
    have hst := st_of_exec hf hu
    refine ⟨congrArg tick hdt, congrArg tick hst, fun x hx => ?_⟩
    rw [hx] at hu
    cases hu
    exact State.getV_setV_self _ x s.dt

/-! ### The fetch (spec/40_cycle.md R120, R121, R123) -/

theorem State.nextWord_eq_packWord (s : State) :
    s.nextWord = packWord (s.peek s.pc.toNat) (s.peek (s.pc.toNat + 1)) := rfl

theorem State.toNat_nextWord (s : State) :
    s.nextWord.toNat = (s.peek s.pc.toNat).toNat * 256 + (s.peek (s.pc.toNat + 1)).toNat := by
  rw [State.nextWord_eq_packWord, packWord_eq_ofNat, BitVec.toNat_ofNat]
  omega

/-- Settles O8: the step ends the cycle with the result of the execution, whatever that is. -/
theorem stepRunsTheFetchedInstruction : Obligations.StepRunsTheFetchedInstruction := fun s hready =>
  ⟨s.toNat_nextWord, fun _ hnext => (step_ready hready).trans (congrArg (endCycle s) hnext),
    fun _ hstop => (step_ready hready).trans (congrArg (endCycle s) hstop)⟩

/-- What a fetch fault records (R123): 4096 where only the second byte is out of range, otherwise `PC`. -/
theorem fetchInfo_eq {pc : Word} (h : 4095 ≤ pc.toNat) :
    fetchInfo pc = if pc.toNat = 4095 then 4096 else BitVec.ofNat 17 pc.toNat := by
  unfold fetchInfo Config.memSize
  split
  · rw [max_eq_right (by omega)]
    rfl
  · rw [max_eq_left (by omega)]

/-- Settles O9: a fetch at 4094 or below reads both bytes, any other one records the fetch fault. -/
theorem fetchBeyondMemoryFaults : Obligations.FetchBeyondMemoryFaults := by
  intro s hrun
  refine ⟨fun hpc => ?_, fun hpc => ?_⟩
  · exact s.fetchWord_eq.trans (if_pos hpc)
  · rw [step_fetchFault hrun hpc, State.fetchFault, fetchInfo_eq hpc]
    rfl

/-- Settles O10: a standing fault is what a step asks for first. -/
theorem stepWhileFaultedChangesNothing : Obligations.StepWhileFaultedChangesNothing := fun _ => step_faulted

/-! ### A word placed for the next fetch (log entry 8) -/

theorem State.fetchPlace_of_le {s : State} (h : s.pc.toNat ≤ 4094) : s.fetchPlace = s.pc :=
  if_pos (Nat.lt_of_le_of_lt (Nat.succ_le_succ h) (by decide))

/-- Both bytes of a word at the place chosen lie in memory. -/
theorem State.fetchPlace_le (s : State) : s.fetchPlace.toNat ≤ 4094 := by
  unfold State.fetchPlace Config.memSize
  split
  · omega
  · decide

theorem State.withFetchWord_ready (s : State) (nbits w : Nat) : (s.withFetchWord nbits w).ready := by
  refine ⟨?_, s.fetchPlace_le⟩
  show (if s.fault.valid then FaultRecord.none else s.fault).valid = false
  split
  · rfl
  next hrun => simpa using hrun

/-- In a canonical memory the next fetch reads the word placed. -/
theorem State.withFetchWord_nextWord {s : State} (hm : s.mem.wf = true) (nbits w : Nat) :
    (s.withFetchWord nbits w).nextWord = tableWord nbits w := by
  have hplace := s.fetchPlace_le
  have hread : ∀ (k : Nat) (hk : k < 2), (s.withFetchWord nbits w).peek (s.fetchPlace.toNat + k) =
      [highByte (tableWord nbits w), lowByte (tableWord nbits w)][k] := fun k hk =>
    s.peek_writeBytes hm (by simp; omega) hk
  calc (s.withFetchWord nbits w).nextWord
      = packWord (highByte (tableWord nbits w)) (lowByte (tableWord nbits w)) :=
        congrArg₂ packWord (hread 0 (by decide)) (hread 1 (by decide))
    _ = tableWord nbits w := packWord_bytes _

/-- Where a fetch is possible, placing a word only stores its two bytes at `PC`. -/
theorem State.withFetchWord_of_ready {s : State} (h : s.ready) (nbits w : Nat) :
    s.withFetchWord nbits w =
      s.setMem (s.mem.writeBytes s.pc.toNat [highByte (tableWord nbits w), lowByte (tableWord nbits w)]) := by
  obtain ⟨hrun, hpc⟩ := h
  rw [State.withFetchWord, State.fetchPlace_of_le hpc, if_neg (by simp [hrun])]
  rfl

/-- Settles O15: the bytes stored at the place of the next fetch are what it reads, and the store is the only change where a
fetch was possible before. -/
theorem placedWordIsTheNextRun : Obligations.PlacedWordIsTheNextRun := by
  intro s w hm
  refine ⟨s.withFetchWord_ready 16 _, ?_, ?_, fun hrun hpc => ?_⟩
  · rw [State.withFetchWord_nextWord hm, tableWord_full]
  · rw [decodeTableWord_eq, tableWord_full]
  · rw [State.withFetchWord_of_ready ⟨hrun, hpc⟩]
    refine (ChangesOnly.writeBytes s _ _).mono ?_
    rintro p ⟨k, hk, rfl⟩
    obtain rfl | rfl : k = 0 ∨ k = 1 := Nat.le_one_iff_eq_zero_or_eq_one.mp (Nat.le_of_lt_succ hk)
    · exact .inl rfl
    · exact .inr rfl

/-! ### The no-operation (spec/40_cycle.md R126) -/

/-- A step that fetches an unmapped word does nothing but phases 2, 3 and 5 of the cycle. -/
theorem step_of_unmapped {s : State} (hready : s.ready) (hw : unmappedWord s.nextWord = true) :
    step s = .next (s.latch s.nextWord).timerPhase := by
  have hlatch : (s.latch s.nextWord).fault.valid = false := hready.1
  rw [step_ready hready, decode_nop_of_unmapped hw, exec_nop, execNop, endCycle_running s hlatch]

/-- Settles O39: the frame of the step is that of the latch followed by that of the timer phase. -/
theorem unmappedWordIsANoOperation : Obligations.UnmappedWordIsANoOperation := by
  intro w s hw
  refine ⟨decode_nop_of_unmapped hw, rfl, ?_⟩
  rintro hready rfl
  refine ⟨_, step_of_unmapped hready hw, rfl, rfl, rfl, ?_⟩
  exact ((ChangesOnly.latch s _).mono (by tauto)).trans ((ChangesOnly.timerPhase _).mono (by tauto))

end Sys2Proof.Machine
end

section
/-! SUPPORT. Control flow (spec/41_control_flow.md): the targets of the two jumps, where `CALL` and `RET` complete, and what a
skip leaves, taken or not. The words are those the encoder writes, so that `decode_encode` reads them back. -/

namespace Sys2Proof.Machine

/-! ### Jumps (R142, R148) -/

@[simp] theorem toNat_zext16 (nnn : Addr12) : (zext16 nnn).toNat = nnn.toNat :=
  BitVec.toNat_setWidth_of_le (by decide)

/-- The largest sum is 0x10FE, so that 16 bits hold it. -/
theorem toNat_zext16_add_byte (nnn : Addr12) (b : Byte) :
    (zext16 nnn + b.setWidth 16).toNat = nnn.toNat + b.toNat := by
  have hnnn := nnn.isLt
  have hb := b.isLt
  rw [BitVec.toNat_add, toNat_zext16, BitVec.toNat_setWidth]
  omega

/-- Settles O32: the jump is one write of `PC`. -/
theorem jumpSetsPC : Obligations.JumpSetsPC := fun nnn s =>
  ⟨decode_encode (i := .jp nnn) rfl, _, exec_jp nnn s, toNat_zext16 nnn, ChangesOnly.setPC s _⟩

/-- Settles O36: the jump is one write of `PC`, and the sum of its operands does not wrap. -/
theorem jumpWithOffsetIsNotMasked : Obligations.JumpWithOffsetIsNotMasked := fun nnn s =>
  ⟨decode_encode (i := .jpV0 nnn) rfl, _, exec_jpV0 nnn s, toNat_zext16_add_byte nnn _, ChangesOnly.setPC s _⟩

/-! ### The call stack (R141, R143) -/

/-- Where the fault table gives an instruction a fault, executing it completes with that fault taken. -/
theorem exec_takes_fault {i : Instr} {s : State} {cause : FaultCause} {info : Nat}
    (hf : faultOf i s = some (cause, info)) : ∃ t, exec i s = .next t ∧ FaultTaken cause info s t := by
  rw [exec_of_faultOf hf]
  exact raiseFault_taken cause info s

/-- A call with a free stack entry pushes and jumps. -/
theorem exec_call_of_lt (nnn : Addr12) {s : State} (h : s.sp.toNat < 16) :
    exec (.call nnn) s = .next ((s.push s.pc h).setPC (zext16 nnn)) := by
  have hne : s.sp ≠ 16 := fun h16 => by simp [h16] at h
  rw [exec_call, execCall, if_neg hne, dif_pos h]

/-- A return with `k + 1` entries occupied pops and goes on at entry `k`. -/
theorem exec_ret_of_succ (m : Nibble) {s : State} {k : Fin 16} (h : s.sp.toNat = k.val + 1) :
    exec (.ret m) s = .next (s.pop.setPC s.stack[k]) := by
  have hne : s.sp ≠ 0 := fun h0 => by simp [h0] at h
  have hidx : s.sp.toNat - 1 = k.val := by omega
  have hlt : s.sp.toNat - 1 < 16 := hidx ▸ k.isLt
  have htop : s.top hlt = s.stack[k] := by simp [State.top, hidx]
  rw [exec_ret, execRet, if_neg hne, dif_pos hlt, htop]

theorem State.toNat_sp_push (s : State) (w : Word) (h : s.sp.toNat < 16) : (s.push w h).sp.toNat = s.sp.toNat + 1 := by
  rw [State.push_sp]
  bv_omega

theorem State.toNat_sp_pop {s : State} {n : Nat} (h : s.sp.toNat = n + 1) : s.pop.sp.toNat = n := by
  rw [State.pop_sp]
  bv_omega

/-- Settles O37: the entry the call pushed is the one the return pops. -/
theorem retUndoesCall : Obligations.RetUndoesCall := by
  intro nnn m s t u hlt hcall hsp hstack
  rw [exec_call_of_lt nnn hlt] at hcall
  cases hcall
  have hcount : u.sp.toNat = s.sp.toNat + 1 := (congrArg BitVec.toNat hsp).trans (s.toNat_sp_push s.pc hlt)
  refine ⟨_, exec_ret_of_succ m (k := ⟨s.sp.toNat, hlt⟩) hcount, ?_, ?_⟩
  · rw [State.setPC_pc, hstack, State.setPC_stack, State.stack_push, if_pos rfl]
  · rw [State.setPC_sp, State.pop_sp, hsp]
    exact BitVec.add_sub_cancel s.sp 1

/-- Settles O31: the fault is the table's, the frame that of every return that does not fault. -/
theorem retPopsTheReturnAddress : Obligations.RetPopsTheReturnAddress := by
  intro m s
  refine ⟨decode_encode (i := .ret m) rfl, fun h0 => ?_, fun k hk => ?_⟩
  · exact exec_takes_fault (i := .ret m) (if_pos (congrArg BitVec.toNat h0))
  · have hf : faultOf (.ret m) s = none := if_neg (by omega)
    have hexec := exec_ret_of_succ m hk
    exact ⟨_, hexec, State.toNat_sp_pop hk, rfl, exec_frame hf hexec⟩

/-- Settles O33: the fault is the table's; the frame is that of every call that does not fault, its one stack entry being `k`. -/
theorem callPushesTheReturnAddress : Obligations.CallPushesTheReturnAddress := by
  intro nnn s
  refine ⟨decode_encode (i := .call nnn) rfl, fun h16 => ?_, fun k hk => ?_⟩
  · exact exec_takes_fault (i := .call nnn) (if_pos (congrArg BitVec.toNat h16))
  · have hlt : s.sp.toNat < 16 := hk ▸ k.isLt
    have hf : faultOf (.call nnn) s = none := if_neg (by omega)
    have hexec := exec_call_of_lt nnn hlt
    refine ⟨_, hexec, ?_, hk ▸ s.toNat_sp_push s.pc hlt, toNat_zext16 nnn, (exec_frame hf hexec).mono ?_⟩
    · rw [State.setPC_stack, State.stack_push, if_pos hk.symm]
    · rintro p (hpc | hsp | ⟨j, hj, hstack⟩)
      · exact .inl hpc
      · exact .inr (.inl hsp)
      · exact .inr (.inr (Fin.ext (hj.trans hk) ▸ hstack))

/-! ### Skips (R140, R144 to R147) -/

/-- An instruction that is a skip on `c` skips exactly where the proposition `c` decides holds, and writes `PC` alone. -/
theorem exec_skips_iff {i : Instr} {s : State} {c : Bool} {P : Prop} [Decidable P]
    (h : exec i s = .next (s.skipIf c)) (hc : c = true ↔ P) :
    ∃ t, exec i s = .next t ∧ t.pc = (if P then s.pc + 2 else s.pc) ∧ ChangesOnly (fun p => p = .pc) s t :=
  ⟨_, h, (State.skipIf_pc s c).trans (if_congr hc rfl rfl), ChangesOnly.skipIf s c⟩

/-- Settles O34: both are skips on a test of the register against the immediate. -/
theorem skipsOnAnImmediate : Obligations.SkipsOnAnImmediate := fun x kk s =>
  ⟨decode_encode (i := .seImm x kk) rfl, decode_encode (i := .sneImm x kk) rfl,
    exec_skips_iff (exec_seImm x kk s) beq_iff_eq, exec_skips_iff (exec_sneImm x kk s) bne_iff_ne⟩

/-- Settles O35: both are skips on a test of the two registers, whatever the unexamined digit. -/
theorem skipsOnTwoRegisters : Obligations.SkipsOnTwoRegisters := fun x y z s =>
  ⟨decode_encode (i := .seReg x y z) rfl, decode_encode (i := .sneReg x y z) rfl,
    exec_skips_iff (exec_seReg x y z s) beq_iff_eq, exec_skips_iff (exec_sneReg x y z s) bne_iff_ne⟩

end Sys2Proof.Machine
end

section
/-! SUPPORT. Register load, arithmetic, logic, shift and random instructions (spec/42_alu.md): each is one write of `Vx`, followed
in five of them by the write of the flag. The words are those the encoder writes, so that `decode_encode` reads them back. -/

namespace Sys2Proof.Machine

/-! ### One write of `Vx` and no flag (R161 to R166, R172) -/

/-- Settles O40: both are one write of `Vx`. -/
theorem loadImmediateAndCopy : Obligations.LoadImmediateAndCopy := fun x y kk s =>
  ⟨decode_encode (i := .ldImm x kk) rfl, decode_encode (i := .ldReg x y) rfl,
    ⟨_, exec_ldImm x kk s, State.getV_setV_self s x _, ChangesOnly.setV s x _⟩,
    ⟨_, exec_ldReg x y s, State.getV_setV_self s x _, ChangesOnly.setV s x _⟩⟩

/-- Settles O41: one write of `Vx`, with the sum of two bytes. -/
theorem addImmediateWrapsWithoutAFlag : Obligations.AddImmediateWrapsWithoutAFlag := by
  intro x kk s
  refine ⟨decode_encode (i := .addImm x kk) rfl, _, exec_addImm x kk s, ?_, ChangesOnly.setV s x _⟩
  rw [State.getV_setV_self, BitVec.toNat_add]

/-- Settles O42: each is one write of `Vx`, with the operation of bit vectors that works bit by bit. -/
theorem logicWritesNoFlag : Obligations.LogicWritesNoFlag := by
  intro x y s
  refine ⟨decode_encode (i := .orReg x y) rfl, decode_encode (i := .andReg x y) rfl, decode_encode (i := .xorReg x y) rfl,
    ⟨_, exec_orReg x y s, fun b => ?_, ChangesOnly.setV s x _⟩,
    ⟨_, exec_andReg x y s, fun b => ?_, ChangesOnly.setV s x _⟩,
    ⟨_, exec_xorReg x y s, fun b => ?_, ChangesOnly.setV s x _⟩⟩
  · rw [State.getV_setV_self, BitVec.getLsbD_or]
  · rw [State.getV_setV_self, BitVec.getLsbD_and]
  · rw [State.getV_setV_self, BitVec.getLsbD_xor]

/-- Settles O46: `Vx` is a byte under the mask, so that masking it by the complement leaves nothing, whatever the draw. -/
theorem randomByteUnderAMask : Obligations.RandomByteUnderAMask := by
  intro x kk s
  have hx : (s.countDraw.setV x (s.draw &&& kk)).getV x = s.draw &&& kk := State.getV_setV_self _ x _
  refine ⟨decode_encode (i := .rnd x kk) rfl, _, exec_rnd x kk s, hx, rfl, ?_,
    exec_frame (i := .rnd x kk) rfl (exec_rnd x kk s)⟩
  rw [hx, BitVec.and_assoc, BitVec.and_not_self]
  exact BitVec.and_zero

/-! ### A result in `Vx`, then the flag in `VF` (R160, R167 to R171) -/

/-- The result is what remains in `Vx` unless the flag overwrites it. -/
theorem State.getV_setResultAndFlag_of_ne (s : State) {x : Reg} (hx : x ≠ VF) (r f : Byte) :
    (s.setResultAndFlag x r f).getV x = r := by
  rw [State.getV_setResultAndFlag, if_neg hx, if_pos rfl]

/-- An instruction that writes the result `r` and then the flag `f` completes with `f` in `VF`, with `r` in `Vx`
where `x` is not `VF`, and changes nothing else. `R` and `F` are what a statement says of the two bytes. -/
theorem exec_writes_result_and_flag {i : Instr} {s : State} {x : Reg} {r f : Byte} (R F : Byte → Prop)
    (h : exec i s = .next (s.setResultAndFlag x r f)) (hr : R r) (hf : F f) :
    ∃ t, exec i s = .next t ∧ (x ≠ VF → R (t.getV x)) ∧ F (t.getV VF) ∧
      ChangesOnly (fun p => p = .v x ∨ p = .v VF) s t := by
  refine ⟨_, h, fun hx => ?_, ?_, ChangesOnly.setResultAndFlag s x r f⟩
  · rwa [s.getV_setResultAndFlag_of_ne hx]
  · rwa [getV_VF_setResultAndFlag]

/-- The difference of two bytes, modulo 256. -/
theorem toNat_byte_sub (a b : Byte) : (a - b).toNat = (a.toNat + 256 - b.toNat) % 256 := by
  have hb := b.isLt
  rw [BitVec.toNat_sub]
  omega

/-- Settles O43: the result is the sum of two bytes, the flag its carry. -/
theorem addRegistersWithCarry : Obligations.AddRegistersWithCarry := fun x y s =>
  ⟨decode_encode (i := .addReg x y) rfl,
    exec_writes_result_and_flag (·.toNat = _) (· = _) (exec_addReg x y s) (BitVec.toNat_add _ _) (flagByte_decide _)⟩

/-- Settles O44: the result is the difference of two bytes, the flag whether it borrows; `SUBN` is `SUB` with its operands
exchanged. -/
theorem subtractBothWays : Obligations.SubtractBothWays := fun x y s =>
  ⟨decode_encode (i := .sub x y) rfl, decode_encode (i := .subn x y) rfl,
    exec_writes_result_and_flag (·.toNat = _) (· = _) (exec_sub x y s) (toNat_byte_sub _ _) (flagByte_decide _),
    exec_writes_result_and_flag (·.toNat = _) (· = _) (exec_subn x y s) (toNat_byte_sub _ _) (flagByte_decide _)⟩

/-- A byte shifted right by one. -/
theorem toNat_byte_shiftRight_one (a : Byte) : (a >>> 1).toNat = a.toNat / 2 := by
  rw [BitVec.toNat_ushiftRight, Nat.shiftRight_one]

/-- A byte shifted left by one. -/
theorem toNat_byte_shiftLeft_one (a : Byte) : (a <<< 1).toNat = a.toNat * 2 % 256 := by
  rw [BitVec.toNat_shiftLeft, Nat.shiftLeft_eq]

/-- Settles O45: the result is `Vx` shifted by one, the flag the bit that leaves it. -/
theorem shiftsPutTheBitInVF : Obligations.ShiftsPutTheBitInVF := fun x y s =>
  ⟨decode_encode (i := .shr x y) rfl, decode_encode (i := .shl x y) rfl,
    exec_writes_result_and_flag (·.toNat = _) (·.toNat = _) (exec_shr x y s) (toNat_byte_shiftRight_one _)
      (toNat_lowBitFlag _),
    exec_writes_result_and_flag (·.toNat = _) (·.toNat = _) (exec_shl x y s) (toNat_byte_shiftLeft_one _)
      (toNat_highBitFlag _)⟩

end Sys2Proof.Machine
end

section
/-! SUPPORT. The index register and the accesses based at it (spec/43_index_memory.md): three instructions that write `I` alone,
two stores and one load that fault as a whole or complete. The words are those the encoder writes, so that `decode_encode`
reads them back. -/

namespace Sys2Proof.Machine

/-! ### Register dump and register load (R195, R196) -/

/-- Settles O49: the fault is the table's, the bytes those of a dump that fits, the frame that of every dump that does not
fault. -/
theorem dumpStoresTheRegisters : Obligations.DumpStoresTheRegisters := by
  intro x s hm
  refine ⟨decode_encode (i := .dumpRegs x) rfl, fun hout => ?_, fun hfit => ?_⟩
  · exact exec_takes_fault (i := .dumpRegs x) (if_pos hout)
  · have hf : faultOf (.dumpRegs x) s = none := if_neg (by omega)
    obtain ⟨-, hexec⟩ := exec_dumpRegs_of_no_fault hf
    exact ⟨_, hexec, peek_of_dumpRegs hm hfit hexec, exec_frame hf hexec⟩

/-- A register load that fits completes, with each register up to `x` holding the byte at its place. -/
theorem exec_loadRegs_of_fits {x : Reg} {s : State} (hfit : s.i.toNat + x.val ≤ 4095) :
    ∃ t, exec (.loadRegs x) s = .next t ∧ ∀ k : Reg, k.val ≤ x.val → t.getV k = s.peek (s.i.toNat + k.val) := by
  have hf : faultOf (.loadRegs x) s = none := if_neg (by omega)
  refine ⟨_, exec_loadRegs_of_no_fault hf, fun k hk => ?_⟩
  have hlt : k.val < (s.mem.readBytes s.i.toNat (x.val + 1)).length := by
    rw [Memory.length_readBytes]
    omega
  rw [State.getV_setRegsFrom, if_pos ⟨Nat.zero_le _, by omega⟩, Nat.sub_zero, List.getD_eq_getElem _ _ hlt,
    Memory.getElem_readBytes, State.peek]

/-- Settles O50: the fault is the table's, the frame that of every load that does not fault. -/
theorem loadFillsTheRegisters : Obligations.LoadFillsTheRegisters := by
  intro x s
  refine ⟨decode_encode (i := .loadRegs x) rfl, fun hout => ?_, fun hfit => ?_⟩
  · exact exec_takes_fault (i := .loadRegs x) (if_pos hout)
  · have hf : faultOf (.loadRegs x) s = none := if_neg (by omega)
    obtain ⟨t, hexec, hregs⟩ := exec_loadRegs_of_fits hfit
    exact ⟨t, hexec, hregs, exec_frame hf hexec⟩

/-- Settles O51: the dump leaves `I` alone, so that the load reads each register from the byte the dump stored it in. -/
theorem dumpThenLoadGivesTheRegistersBack : Obligations.DumpThenLoadGivesTheRegistersBack := by
  intro x s t u hm hfit hdump hi hpeek
  have hti : t.i = s.i := exec_same hdump (p := .i) (by simp [mayWrite]) nofun nofun
  have hui : u.i = s.i := hi.trans hti
  obtain ⟨u', hload, hregs⟩ := exec_loadRegs_of_fits (s := u) (hui ▸ hfit)
  refine ⟨u', hload, fun k hk => ?_⟩
  calc u'.getV k = u.peek (u.i.toNat + k.val) := hregs k hk
    _ = t.peek (s.i.toNat + k.val) := by rw [hpeek, hui]
    _ = s.getV k := peek_of_dumpRegs hm hfit hdump k hk

/-! ### Writes of `I` (R191 to R193) -/

/-- The sum wraps at 16 bits, not at the end of memory. -/
theorem toNat_add_byte (i : Word) (b : Byte) : (i + b.setWidth 16).toNat = (i.toNat + b.toNat) % 65536 := by
  rw [BitVec.toNat_add, BitVec.toNat_setWidth_of_le (by decide)]

/-- The largest glyph address is 0x54B, so that 16 bits hold it. -/
theorem toNat_glyphAddr (v : Byte) : (glyphAddr v).toNat = v.toNat * 5 + 0x050 := by
  have hv := v.isLt
  exact Nat.mod_eq_of_lt (show v.toNat * 5 + 0x050 < 2 ^ 16 by omega)

/-- Settles O47: each is one write of `I`. -/
theorem indexRegisterInstructions : Obligations.IndexRegisterInstructions := fun x nnn s =>
  ⟨decode_encode (i := .ldI nnn) rfl, decode_encode (i := .addI x) rfl, decode_encode (i := .ldF x) rfl,
    ⟨_, exec_ldI nnn s, toNat_zext16 nnn, ChangesOnly.setI s _⟩,
    ⟨_, exec_addI x s, toNat_add_byte s.i _, ChangesOnly.setI s _⟩,
    ⟨_, exec_ldF x s, toNat_glyphAddr _, ChangesOnly.setI s _⟩⟩

/-! ### Decimal digits (R194) -/

@[simp] theorem length_bcdDigits (v : Byte) : (bcdDigits v).length = 3 := rfl

/-- The three digits of a byte as numbers: each is below 10, so that a byte holds it. -/
theorem toNat_bcdDigits (v : Byte) :
    (bcdDigits v)[0].toNat = v.toNat / 100 ∧ (bcdDigits v)[1].toNat = v.toNat / 10 % 10 ∧
      (bcdDigits v)[2].toNat = v.toNat % 10 := by
  have hv := v.isLt
  exact ⟨Nat.mod_eq_of_lt (by omega), Nat.mod_eq_of_lt (by omega), Nat.mod_eq_of_lt (by omega)⟩

/-- Settles O48: the fault is the table's, the bytes are the three digits written, the frame is that of every such store that
does not fault. -/
theorem bcdStoresThreeDigits : Obligations.BcdStoresThreeDigits := by
  intro x s hm
  refine ⟨decode_encode (i := .ldB x) rfl, fun hout => ?_, fun hfit => ?_⟩
  · exact exec_takes_fault (i := .ldB x) (if_pos hout)
  · have hf : faultOf (.ldB x) s = none := if_neg (by omega)
    obtain ⟨-, hexec⟩ := exec_ldB_of_no_fault hf
    obtain ⟨hhundreds, htens, hunits⟩ := toNat_bcdDigits (s.getV x)
    have hread : ∀ (k : Nat) (hk : k < 3),
        (s.setMem (s.mem.writeBytes s.i.toNat (bcdDigits (s.getV x)))).peek (s.effAddr k) = (bcdDigits (s.getV x))[k] :=
      fun k hk => s.peek_writeBytes hm (show s.i.toNat + 3 ≤ 4096 by omega) hk
    refine ⟨_, hexec, ?_, ?_, ?_, exec_frame hf hexec⟩
    · rw [hread 0 (by decide), hhundreds]
    · rw [hread 1 (by decide), htens]
    · rw [hread 2 (by decide), hunits]

end Sys2Proof.Machine
end

section
/-! SUPPORT. Graphics (spec/44_graphics.md): clearing the screen, and the sprite of a draw that does not fault as the set of
pixels under its set bits, each toggled once. The words are those the encoder writes, so that `decode_encode` reads them
back. -/

namespace Sys2Proof.Machine

/-! ### Clearing the screen (R211) -/

/-- Settles O52: the instruction is one write of the buffer, with the dark one. -/
theorem clearScreenTurnsEveryPixelOff : Obligations.ClearScreenTurnsEveryPixelOff := fun m s =>
  ⟨decode_encode (i := .cls m) rfl, _, exec_cls m s, Video.pixel_dark, ChangesOnly.setVid s _⟩

/-! ### The pixels under a sprite (R210, R212) -/

/-- Byte `k` of a read of `n` bytes. -/
theorem State.getD_readBytes (s : State) (a : Nat) {n k : Nat} (hk : k < n) :
    (s.mem.readBytes a n).getD k 0 = s.peek (a + k) := by
  have hlt : k < (s.mem.readBytes a n).length := by rwa [Memory.length_readBytes]
  rw [List.getD_eq_getElem _ _ hlt, Memory.getElem_readBytes, State.peek]

/-- The pixels covered, in the words of the drawing over the bytes read. -/
theorem spriteCovers_iff (s : State) (x y : Reg) (n : Nat) (r : Fin 32) (c : Fin 64) :
    SpriteCovers s x y n r c ↔
      ∃ k ∈ List.range (s.mem.readBytes s.i.toNat n).length, r = spriteRow (s.getV y) (0 + k) ∧
        ∃ col ∈ List.range 8, ((s.mem.readBytes s.i.toNat n).getD k 0).getLsbD (7 - col) = true ∧
          c = spriteCol (s.getV x) col := by
  simp only [SpriteCovers, Memory.length_readBytes, List.mem_range, Nat.zero_add, Fin.ext_iff, spriteRow, spriteCol,
    Fin.val_ofNat]
  constructor
  · rintro ⟨row, col, hrow, hcol, hbit, hr, hc⟩
    exact ⟨row, hrow, hr, col, hcol, by rwa [s.getD_readBytes _ hrow], hc⟩
  · rintro ⟨row, hrow, hr, col, hcol, hbit, hc⟩
    exact ⟨row, col, hrow, hcol, by rwa [← s.getD_readBytes _ hrow], hr, hc⟩

/-- A sprite covers some pixel exactly if it has a set bit. -/
theorem exists_spriteCovers_iff (s : State) (x y : Reg) (n : Nat) :
    (∃ r c, SpriteCovers s x y n r c) ↔
      ∃ row col : Nat, row < n ∧ col < 8 ∧ (s.peek (s.i.toNat + row)).getLsbD col = true := by
  constructor
  · rintro ⟨r, c, row, col, hrow, hcol, hbit, -, -⟩
    exact ⟨row, 7 - col, hrow, by omega, hbit⟩
  · rintro ⟨row, col, hrow, hcol, hbit⟩
    refine ⟨spriteRow (s.getV y) row, spriteCol (s.getV x) (7 - col), row, 7 - col, hrow, by omega, ?_, rfl, rfl⟩
    rwa [show 7 - (7 - col) = col by omega]

/-- States that agree on the origin, on `I` and on memory have the same pixels under a sprite. -/
theorem spriteCovers_congr {s t : State} {x y : Reg} (hx : t.getV x = s.getV x) (hy : t.getV y = s.getV y)
    (hi : t.i = s.i) (hmem : ∀ a, t.peek a = s.peek a) (n : Nat) (r : Fin 32) (c : Fin 64) :
    SpriteCovers t x y n r c ↔ SpriteCovers s x y n r c := by
  simp only [SpriteCovers, hx, hy, hi, hmem]

/-! ### A draw that does not fault (R212) -/

/-- The drawing is the exclusive or of the buffer with the pixels covered. -/
theorem drawSprite_pixel (s : State) (x y : Reg) (n : Fin 16) (r : Fin 32) (c : Fin 64)
    [Decidable (SpriteCovers s x y n.val r c)] :
    (s.drawSprite x y n).vid.pixel r c = (s.pixel r c ^^ decide (SpriteCovers s x y n.val r c)) := by
  have hlen : 0 + (s.mem.readBytes s.i.toNat n.val).length ≤ 32 := by
    rw [Memory.length_readBytes]
    omega
  rw [decide_eq_decide.mpr (spriteCovers_iff s x y n.val r c)]
  exact Drawing.rows_pixel _ _ _ _ _ hlen r c

section
variable {x y : Reg} {n : Fin 16} {s t : State} (hf : faultOf (.drw x y n) s = none)
  (h : exec (.drw x y n) s = .next t)
include hf h

/-- What a draw leaves in the buffer is what it has drawn. -/
theorem pixel_of_drw (r : Fin 32) (c : Fin 64) : t.pixel r c = (s.drawSprite x y n).vid.pixel r c := by
  rw [exec_drw_of_no_fault hf] at h
  cases h
  rfl

theorem pixel_of_drw_covered {r : Fin 32} {c : Fin 64} (hc : SpriteCovers s x y n.val r c) :
    t.pixel r c = !(s.pixel r c) := by
  classical
  rw [pixel_of_drw hf h, drawSprite_pixel, decide_eq_true hc, Bool.xor_true]

theorem pixel_of_drw_uncovered {r : Fin 32} {c : Fin 64} (hc : ¬ SpriteCovers s x y n.val r c) :
    t.pixel r c = s.pixel r c := by
  classical
  rw [pixel_of_drw hf h, drawSprite_pixel, decide_eq_false hc, Bool.xor_false]

/-- A collision is reported exactly if a pixel under the sprite was on: those are the pixels that go from on to off. -/
theorem getV_VF_of_drw_eq_one_iff :
    t.getV VF = 1 ↔ ∃ r c, SpriteCovers s x y n.val r c ∧ s.pixel r c = true := by
  rw [(getV_VF_of_drw hf h).2]
  refine exists₂_congr fun r c => ?_
  by_cases hc : SpriteCovers s x y n.val r c
  · simp [pixel_of_drw_covered hf h hc, hc]
  · simp [pixel_of_drw_uncovered hf h hc, hc]

theorem getV_VF_of_drw_eq_zero (hdark : ¬ ∃ r c, SpriteCovers s x y n.val r c ∧ s.pixel r c = true) :
    t.getV VF = 0 :=
  (getV_VF_of_drw hf h).1.resolve_right fun h1 => hdark ((getV_VF_of_drw_eq_one_iff hf h).mp h1)

end

/-- Settles O53: the fault is the table's, the frame that of every draw that does not fault. -/
theorem drawTogglesPixelsUnderSetBits : Obligations.DrawTogglesPixelsUnderSetBits := by
  intro x y n s
  refine ⟨decode_encode (i := .drw x y n) rfl, fun hpos hout => ?_, fun hfit => ?_⟩
  · exact exec_takes_fault (i := .drw x y n) (if_pos ⟨hpos, hout⟩)
  · have hf : faultOf (.drw x y n) s = none := if_neg (by omega)
    have hexec := exec_drw_of_no_fault hf
    exact ⟨_, hexec, fun r c => pixel_of_drw_covered hf hexec, fun r c => pixel_of_drw_uncovered hf hexec,
      (getV_VF_of_drw_eq_one_iff hf hexec).mpr, getV_VF_of_drw_eq_zero hf hexec, exec_frame hf hexec⟩

/-! ### Drawing twice (R213) -/

/-- Where the origin registers are not the flag, a draw leaves the pixels under the sprite and the absence of a fault as they
were, so that the same draw does the same again. -/
theorem drw_keeps_sprite {x y : Reg} {n : Fin 16} {s t : State} (hx : x ≠ VF) (hy : y ≠ VF)
    (hf : faultOf (.drw x y n) s = none) (h : exec (.drw x y n) s = .next t) :
    faultOf (.drw x y n) t = none ∧
      ∀ (r : Fin 32) (c : Fin 64), SpriteCovers t x y n.val r c ↔ SpriteCovers s x y n.val r c := by
  have hframe := exec_frame hf h
  have hi : t.i = s.i := hframe .i (by simp [mayWrite])
  have hvx : t.getV x = s.getV x := hframe (.v x) (by simp [mayWrite, hx])
  have hvy : t.getV y = s.getV y := hframe (.v y) (by simp [mayWrite, hy])
  have hmem : ∀ a, t.peek a = s.peek a := fun a => hframe (.mem a) (by simp [mayWrite])
  refine ⟨?_, spriteCovers_congr hvx hvy hi hmem n.val⟩
  rw [← hf]
  simp only [faultOf, hi]

/-- Settles O54: the second draw toggles back what the first one toggled, and where the first one found the pixels under the
sprite dark the second one finds them on. -/
theorem drawingTwiceRestoresTheScreen : Obligations.DrawingTwiceRestoresTheScreen := by
  intro x y n s t hx hy hf h
  obtain ⟨hft, hcov⟩ := drw_keeps_sprite hx hy hf h
  have ht := exec_drw_of_no_fault hft
  refine ⟨_, ht, fun r c => ?_, fun hdark => ⟨?_, ?_, (getV_VF_of_drw hft ht).1⟩⟩
  · by_cases hc : SpriteCovers s x y n.val r c
    · rw [pixel_of_drw_covered hft ht ((hcov r c).mpr hc), pixel_of_drw_covered hf h hc, Bool.not_not]
    · rw [pixel_of_drw_uncovered hft ht (mt (hcov r c).mp hc), pixel_of_drw_uncovered hf h hc]
  · refine getV_VF_of_drw_eq_zero hf h ?_
    rintro ⟨r, c, hc, hon⟩
    exact absurd hon (by simp [hdark r c hc])
  · have hlit : ∀ r c, SpriteCovers s x y n.val r c → t.pixel r c = true := fun r c hc => by
      rw [pixel_of_drw_covered hf h hc, hdark r c hc, Bool.not_false]
    rw [← exists_spriteCovers_iff s x y, getV_VF_of_drw_eq_one_iff hft ht]
    exact exists₂_congr fun r c => by rw [hcov r c, and_iff_left_of_imp (hlit r c)]

end Sys2Proof.Machine
end

section
/-! SUPPORT. Keypad and timers (spec/45_timer_keypad.md): the skips on a key, the wait for one, and the transfers between a
register and a timer, each also at the end of its cycle. The words are those the encoder writes, so that `decode_encode` reads
them back. -/

namespace Sys2Proof.Machine

/-! ### Skips on a key (R225 to R227) -/

/-- Settles O55: the fault is the table's; without it both are skips on the level of the key. -/
theorem skipsOnAKey : Obligations.SkipsOnAKey := by
  intro x s
  refine ⟨decode_encode (i := .skp x) rfl, decode_encode (i := .sknp x) rfl, fun hout => ⟨?_, ?_⟩, fun hle => ⟨?_, ?_⟩⟩
  · exact exec_takes_fault (i := .skp x) (if_pos hout)
  · exact exec_takes_fault (i := .sknp x) (if_pos hout)
  · exact exec_skips_iff (exec_skp_of_no_fault (if_neg hle.not_gt)) Iff.rfl
  · exact exec_skips_iff (exec_sknp_of_no_fault (if_neg hle.not_gt)) (iff_of_eq (Bool.not_eq_true' _))

/-! ### A cycle that does not fault (spec/40_cycle.md R120) -/

/-- Where the fetched instruction raises no fault, the cycle ends with the timer phase on what the instruction left. -/
theorem step_of_no_fault {i : Instr} {s u : State} (hready : s.ready) (hi : decode s.nextWord = i)
    (hf : faultOf i (s.latch s.nextWord) = none) (hu : exec i (s.latch s.nextWord) = .next u) :
    step s = .next u.timerPhase := by
  have hrun : u.fault.valid = false := (congrArg FaultRecord.valid (fault_of_exec hf hu)).trans hready.1
  rw [step_ready hready, hi, hu, endCycle_running s hrun]

/-- A part that kept its value can be left out of a frame. -/
theorem ChangesOnly.of_same {W : Part → Prop} {q : Part} {s t : State} (h : ChangesOnly (fun p => p = q ∨ W p) s t)
    (hq : q.same s t) : ChangesOnly W s t := by
  intro p hp
  by_cases hpq : p = q
  · exact hpq ▸ hq
  · exact h p (not_or.mpr ⟨hpq, hp⟩)

/-! ### The wait for a key (R229) -/

/-- No key down is the keypad word 0. -/
theorem State.keys_eq_zero {s : State} (h : ∀ k : Nat, k < 16 → s.key k = false) : s.keys = 0 :=
  BitVec.eq_of_getLsbD_eq fun k hk => (h k hk).trans BitVec.getLsbD_zero.symm

/-- With a key down the wait ends, and `Vx` receives the number of the lowest one. -/
theorem exec_ldVxK_of_lowestKey {s : State} {k : Nat} (x : Reg) (h : s.lowestKey = some k) :
    exec (.ldVxK x) s = .next (s.setV x (BitVec.ofNat 8 k)) := by
  rw [exec_ldVxK, execLdVxK, h]

/-- A waiting cycle undoes the advance of `PC`, so that at most the timers and the opcode register differ after it. -/
theorem ChangesOnly.waitingCycle (s : State) (w : Word) :
    ChangesOnly (fun p => p = .dt ∨ p = .st ∨ p = .opcode) s
      ((s.latch w).setPC ((s.latch w).pc - 2)).timerPhase := by
  have hframe : ChangesOnly (fun p => p = .pc ∨ p = .dt ∨ p = .st ∨ p = .opcode) s
      ((s.latch w).setPC ((s.latch w).pc - 2)).timerPhase :=
    (((ChangesOnly.latch s w).mono (by tauto)).trans ((ChangesOnly.setPC _ _).mono (by tauto))).trans
      ((ChangesOnly.timerPhase _).mono (by tauto))
  exact hframe.of_same (BitVec.add_sub_cancel s.pc 2)

/-- Settles O56: the wait writes `PC` alone or `Vx` alone; a waiting cycle advances `PC` and sets it back, and its timer phase
runs. -/
theorem keyWaitTakesTheLowestKey : Obligations.KeyWaitTakesTheLowestKey := by
  intro x s
  refine ⟨decode_encode (i := .ldVxK x) rfl, fun hnone => ?_, fun k hk hdown hlow => ?_, fun hready hi hnone => ?_⟩
  · exact ⟨_, exec_ldVxK_of_no_key x (State.keys_eq_zero hnone), rfl, ChangesOnly.setPC s _⟩
  · have hlowest : s.lowestKey = some k := (s.lowestKey_eq_some_iff k).mpr ⟨hk, hdown, hlow⟩
    refine ⟨_, exec_ldVxK_of_lowestKey x hlowest, ?_, ChangesOnly.setV s x _⟩
    rw [State.getV_setV_self]
    exact Nat.mod_eq_of_lt (by omega)
  · have hexec := exec_ldVxK_of_no_key (s := s.latch s.nextWord) x (State.keys_eq_zero hnone)
    exact ⟨_, step_of_no_fault hready hi rfl hexec, BitVec.add_sub_cancel s.pc 2, rfl, rfl,
      ChangesOnly.waitingCycle s s.nextWord⟩

/-! ### Transfers between a register and a timer (R228, R230, R231) -/

/-- Settles O57: each is one write of its destination, on which the timer phase of the cycle then acts. -/
theorem timerTransfers : Obligations.TimerTransfers := by
  intro x s
  refine ⟨decode_encode (i := .ldVxDT x) rfl, decode_encode (i := .ldDTVx x) rfl, decode_encode (i := .ldSTVx x) rfl,
    ⟨_, exec_ldVxDT x s, State.getV_setV_self s x _, ChangesOnly.setV s x _⟩,
    ⟨_, exec_ldDTVx x s, rfl, ChangesOnly.setDT s _⟩,
    ⟨_, exec_ldSTVx x s, rfl, ChangesOnly.setST s _⟩,
    fun hready => ⟨fun hi => ?_, fun hi => ?_, fun hi => ?_⟩⟩
  · exact ⟨_, step_of_no_fault hready hi rfl (exec_ldVxDT x _), State.getV_setV_self _ x _, rfl⟩
  · exact ⟨_, step_of_no_fault hready hi rfl (exec_ldDTVx x _), rfl⟩
  · exact ⟨_, step_of_no_fault hready hi rfl (exec_ldSTVx x _), rfl⟩

end Sys2Proof.Machine
end

section
/-! SUPPORT. Exceptions and the end of a run (spec/60_exceptions.md): the fault table of a whole cycle, precise faults, progress from
every state of the invariant along any history of the host, and a program at a jump to itself. -/

namespace Sys2Proof.Machine

/-! ### The fault of a cycle (R251 to R253) -/

/-- Phases 2 and 3 write nothing the fault table reads. -/
@[simp] theorem faultOf_latch (i : Instr) (s : State) (w : Word) : faultOf i (s.latch w) = faultOf i s := by
  cases i <;> rfl

theorem cycleFault_of_ge {s : State} (h : 4095 ≤ s.pc.toNat) :
    cycleFault s = some (.fetchRange, max s.pc.toNat 4096) := by
  have hinfo : (if s.pc.toNat = 4095 then 4096 else s.pc.toNat) = max s.pc.toNat 4096 := by
    split <;> omega
  rw [cycleFault, if_pos h, hinfo]

theorem cycleFault_of_ready {s : State} (h : s.ready) : cycleFault s = faultOf (decode s.nextWord) s :=
  if_neg (Nat.not_le.mpr (Nat.lt_succ_of_le h.2))

/-- With no fault standing a step records the fault of the table and does nothing else, or, where the table has none, leaves
the fault record alone. -/
theorem step_by_cycleFault {s t : State} (hrun : s.running) (h : step s = .next t) :
    (∃ cause info, cycleFault s = some (cause, info) ∧ t = s.recordFault s.pc cause (BitVec.ofNat 17 info)) ∨
    (cycleFault s = none ∧ t.fault = s.fault) := by
  rcases step_cases h with ⟨hstands, -⟩ | ⟨-, hpc, rfl⟩ | ⟨hready, cause, info, hf, rfl⟩ | ⟨hready, hf, u, -, hfault, rfl⟩
  · exact absurd hrun (by simp [hstands])
  · exact .inl ⟨.fetchRange, _, cycleFault_of_ge hpc, rfl⟩
  · rw [faultOf_latch] at hf
    exact .inl ⟨cause, info, (cycleFault_of_ready hready).trans hf, rfl⟩
  · rw [faultOf_latch] at hf
    exact .inr ⟨(cycleFault_of_ready hready).trans hf, hfault⟩

/-- Settles O11: recording a fault at `PC` writes no other piece of state. -/
theorem faultsArePrecise : Obligations.FaultsArePrecise := by
  intro s t hrun h hvalid
  rcases step_by_cycleFault hrun h with ⟨cause, info, -, rfl⟩ | ⟨-, hfault⟩
  · exact ⟨rfl, rfl⟩
  · rw [hfault, hrun] at hvalid
    cases hvalid

/-- Settles O12: by whether the fault table of the cycle has an entry. -/
theorem faultTableIsExact : Obligations.FaultTableIsExact := by
  refine ⟨⟨rfl, rfl, rfl, rfl, rfl, rfl⟩, fun s t hrun h => ?_⟩
  rcases step_by_cycleFault hrun h with ⟨cause, info, hcycle, rfl⟩ | ⟨hcycle, hfault⟩
  · rw [hcycle]
    rfl
  · rw [hcycle]
    exact hfault

/-! ### Progress (R250, spec/10_state.md R27) -/

/-- With `SP` within 0..16 no instruction stops: one that faults answers the state with its fault recorded, a call that does
not has a free entry, and a return that does not has an occupied one. -/
theorem exec_progress {s : State} (hsp : s.sp.toNat ≤ 16) (i : Instr) : ∃ t, exec i s = .next t := by
  cases hf : faultOf i s with
  | some f => exact ⟨_, exec_of_faultOf hf⟩
  | none =>
    cases i with
    | call nnn =>
      have hne : s.sp.toNat ≠ 16 := by simpa [faultOf] using hf
      exact ⟨_, exec_call_of_lt nnn (by omega)⟩
    | ret m =>
      have hne : s.sp.toNat ≠ 0 := by simpa [faultOf] using hf
      exact ⟨_, exec_ret_of_succ m (k := ⟨s.sp.toNat - 1, by omega⟩) (Nat.sub_one_add_one hne).symm⟩
    | drw x y n => exact ⟨_, exec_drw_of_no_fault hf⟩
    | loadRegs x => exact ⟨_, exec_loadRegs_of_no_fault hf⟩
    | ldB x => exact ⟨_, (exec_ldB_of_no_fault hf).2⟩
    | dumpRegs x => exact ⟨_, (exec_dumpRegs_of_no_fault hf).2⟩
    | skp x => exact ⟨_, exec_skp_of_no_fault hf⟩
    | sknp x => exact ⟨_, exec_sknp_of_no_fault hf⟩
    | ldVxK x =>
      by_cases hk : s.keys = 0
      · exact ⟨_, exec_ldVxK_of_no_key x hk⟩
      · obtain ⟨k, -, hexec⟩ := exec_ldVxK_of_key x hk
        exact ⟨_, hexec⟩
    | _ => exact ⟨_, rfl⟩

/-- Settles O23: a standing fault and a fetch fault answer a next state, and so does the end of a cycle whose instruction
answers one. -/
theorem noStepStopsTheMachine : Obligations.NoStepStopsTheMachine := by
  intro s hs
  by_cases hrun : s.running
  · by_cases hpc : s.pc.toNat ≤ 4094
    · obtain ⟨u, hu⟩ := exec_progress (s := s.latch s.nextWord) hs.sp_le (decode s.nextWord)
      exact ⟨_, (step_ready ⟨hrun, hpc⟩).trans (congrArg (endCycle s) hu)⟩
    · exact ⟨_, step_fetchFault hrun (by omega)⟩
  · exact ⟨s, step_faulted (by simpa using hrun)⟩

/-! ### Histories of the host (R266, R267, R272) -/

/-- An image that is taken fits below address 4096, and one that is rejected writes no memory. -/
theorem State.Inv.load {s : State} (hs : s.Inv) (bytes : List Byte) : (s.load bytes).Inv := by
  by_cases hlen : bytes.length ≤ 3584
  · rw [State.load_of_le s hlen]
    exact { hs with memory := Memory.wf_writeBytes hs.memory (by omega) }
  · rw [State.load_of_gt s (by omega)]
    exact { hs with }

theorem State.Inv.presentKeys {s : State} (hs : s.Inv) (levels : BitVec 16) : (s.presentKeys levels).Inv :=
  { hs with }

theorem State.resetOperation_inv (font : Config.FontData) (s : State) : (s.resetOperation font).Inv :=
  { resetMeetsTheInvariant.2 font with }

/-- Each request of the host completes and keeps the invariant. -/
theorem HostOp.apply_keeps_inv (font : Config.FontData) (op : HostOp) {s : State} (hs : s.Inv) :
    ∃ t, op.apply font s = .next t ∧ t.Inv := by
  cases op with
  | reset => exact ⟨_, rfl, s.resetOperation_inv font⟩
  | load bytes => exact ⟨_, rfl, hs.load bytes⟩
  | keys levels => exact ⟨_, rfl, hs.presentKeys levels⟩
  | step =>
    obtain ⟨t, ht⟩ := noStepStopsTheMachine s hs
    exact ⟨t, ht, everyStepKeepsTheInvariant s t hs ht⟩

theorem runHost_cons_of_next {font : Config.FontData} {op : HostOp} {s t : State} (h : op.apply font s = .next t)
    (ops : List HostOp) : runHost font (op :: ops) s = runHost font ops t := by
  rw [runHost, h]

/-- Settles O24: by induction on the history, from any state of the invariant. -/
theorem everyHostHistoryKeepsTheInvariant : Obligations.EveryHostHistoryKeepsTheInvariant := by
  intro font ops
  induction ops with
  | nil => exact fun s hs => ⟨s, rfl, hs⟩
  | cons op ops ih =>
    intro s hs
    obtain ⟨t, ht, htInv⟩ := HostOp.apply_keeps_inv font op hs
    rw [runHost_cons_of_next ht]
    exact ih t htInv

/-! ### The end of a run (R275) -/

/-- A jump to itself advances `PC` and sets it back, and the timer phase follows. -/
theorem step_of_finished {s : State} (h : s.finished) :
    step s = .next ((s.latch s.nextWord).setPC s.pc).timerPhase := by
  obtain ⟨hready, nnn, hi, hpc⟩ := h
  rw [step_of_no_fault hready hi rfl (exec_jp nnn _), hpc]

/-- Settles O38: the frame of such a step is that of a waiting cycle, and the next fetch reads the same jump. -/
theorem finishedStaysFinished : Obligations.FinishedStaysFinished := by
  intro s h
  have hframe := ChangesOnly.waitingCycle s s.nextWord
  rw [State.latch_pc, BitVec.add_sub_cancel] at hframe
  exact ⟨_, step_of_finished h, h, hframe, rfl, rfl⟩

end Sys2Proof.Machine
end

section
/-! SUPPORT. What each request of the host does to a standing fault (spec/70_reset_and_hazards.md R292,
spec/60_exceptions.md R255). -/

namespace Sys2Proof.Machine

/-- Taken or rejected, an image touches memory and `LOAD_ERR` only (spec/20_memory.md R74 to R76). -/
@[simp] theorem State.load_fault (s : State) (bytes : List Byte) : (s.load bytes).fault = s.fault := by
  by_cases hlen : bytes.length ≤ 3584
  · rw [s.load_of_le hlen]
    rfl
  · rw [s.load_of_gt (Nat.lt_of_not_le hlen)]

/-- Settles O26: by the four requests, of which `step` answers the faulted state itself. -/
theorem onlyResetClearsAFault : Obligations.OnlyResetClearsAFault := by
  intro font op s t hvalid h
  cases op with
  | reset =>
    cases h
    exact .inl ⟨rfl, rfl⟩
  | load bytes =>
    cases h
    exact .inr ⟨nofun, s.load_fault bytes⟩
  | keys levels =>
    cases h
    exact .inr ⟨nofun, s.presentKeys_fault levels⟩
  | step =>
    cases (step_faulted hvalid).symm.trans h
    exact .inr ⟨nofun, rfl⟩

end Sys2Proof.Machine
end
